-- ==== Sys2Proof/Word.lean ====
section
/-! DEFINITION. The word types of the block and the three-axis record.

The spec's integer types (00_scope.md R10) are bit vectors of the stated width here; a signed type is the same
bit vector read with `BitVec.toInt`. Every axis-indexed piece of state (axes X = 0, Y = 1, Z = 2, R6 NAXES) is a
`PerAxis`. -/

namespace Sys2Proof

/-- u8 (R10). -/
abbrev Byte := BitVec 8
/-- u16 (R10). -/
abbrev U16 := BitVec 16
/-- u32, and the pattern of an i32 (R10). -/
abbrev U32 := BitVec 32
/-- u64, and the pattern of an i64 (R10). -/
abbrev U64 := BitVec 64

/-- The three axes, in index order X = 0, Y = 1, Z = 2 (R6, row NAXES). -/
inductive Axis where
  | x | y | z
deriving DecidableEq, Repr, Inhabited

/-- The axis index (R6). -/
def Axis.index : Axis → Nat
  | .x => 0
  | .y => 1
  | .z => 2

/-- The axes in the order every per-axis loop takes them (R82, D54). -/
def Axis.all : List Axis := [.x, .y, .z]

/-- One value per axis: the spec's `f[0..2]`. -/
structure PerAxis (α : Type) where
  x : α
  y : α
  z : α
deriving DecidableEq, Repr, Inhabited

/-- `f[i]`. -/
def PerAxis.get {α : Type} (p : PerAxis α) : Axis → α
  | .x => p.x
  | .y => p.y
  | .z => p.z

/-- `f[i] <- v`. -/
def PerAxis.set {α : Type} (p : PerAxis α) (i : Axis) (v : α) : PerAxis α :=
  match i with
  | .x => { p with x := v }
  | .y => { p with y := v }
  | .z => { p with z := v }

/-- The same value on each axis. -/
def PerAxis.same {α : Type} (v : α) : PerAxis α := ⟨v, v, v⟩

/-- A value computed for each axis. -/
def PerAxis.of {α : Type} (f : Axis → α) : PerAxis α := ⟨f .x, f .y, f .z⟩

end Sys2Proof
end

