-- ==== Sys2Proof/Config.lean ====
section
/-! DEFINITION. The configuration record (00_scope.md R6), the message types and layouts it holds
(30_encoding.md R95 to R103), and the free values.

The spec: "The model takes the parameters of the table below as arguments (a configuration record)". `exec` and
`step` have a fixed form, so the record travels in State as a field no operation writes (log entry 1). No claim
about the hardware may rest on `Config.tc`: statements quantify over the record. -/

namespace Sys2Proof

/-! ## Fixed parameters (R6) -/

/-- FRAME_MIN: the shortest wire frame, bytes. -/
def frameMin : Nat := 4
/-- FRAME_MAX: the longest wire frame, bytes. -/
def frameMax : Nat := 42
/-- MICROSTEP_MAX. -/
def microstepMax : Nat := 256
/-- ONE = 2^PHASE_FRAC, the DDA unity threshold, with PHASE_FRAC = 16 (R7). -/
def one : Nat := 65536

/-! ## Message types -/

/-- The request types of R99. -/
inductive ReqType where
  | moveQueueAdd | moveQueueStatus | startMove | moveEnd | setOrigin | encoderStatus
  | ledControl | home | probeLevel | microsteps | autoFriction
deriving DecidableEq, Repr, Inhabited

/-- The request types in the order of R99. -/
def ReqType.all : List ReqType :=
  [.moveQueueAdd, .moveQueueStatus, .startMove, .moveEnd, .setOrigin, .encoderStatus,
   .ledControl, .home, .probeLevel, .microsteps, .autoFriction]

/-- The responses the block builds, by the request they answer (R102): an ACK has the type byte of the request
it acknowledges (R156). -/
inductive RespType where
  | ackMoveQueueAdd | ackStartMove | ackSetOrigin | ackMicrosteps | ackAutoFriction
  | status | moveEnd | encStatus
deriving DecidableEq, Repr, Inhabited

/-- The response types in the order of the opcode table. -/
def RespType.all : List RespType :=
  [.ackMoveQueueAdd, .ackStartMove, .ackSetOrigin, .ackMicrosteps, .ackAutoFriction, .status, .moveEnd, .encStatus]

/-- One value per request type (plain data, so that State holds no function). -/
structure ReqTable (α : Type) where
  moveQueueAdd : α
  moveQueueStatus : α
  startMove : α
  moveEnd : α
  setOrigin : α
  encoderStatus : α
  ledControl : α
  home : α
  probeLevel : α
  microsteps : α
  autoFriction : α
deriving DecidableEq, Repr

/-- The entry of a request type. -/
def ReqTable.get {α : Type} (t : ReqTable α) : ReqType → α
  | .moveQueueAdd => t.moveQueueAdd
  | .moveQueueStatus => t.moveQueueStatus
  | .startMove => t.startMove
  | .moveEnd => t.moveEnd
  | .setOrigin => t.setOrigin
  | .encoderStatus => t.encoderStatus
  | .ledControl => t.ledControl
  | .home => t.home
  | .probeLevel => t.probeLevel
  | .microsteps => t.microsteps
  | .autoFriction => t.autoFriction

/-- One value per response type. -/
structure RespTable (α : Type) where
  ackMoveQueueAdd : α
  ackStartMove : α
  ackSetOrigin : α
  ackMicrosteps : α
  ackAutoFriction : α
  status : α
  moveEnd : α
  encStatus : α
deriving DecidableEq, Repr

/-- The entry of a response type. -/
def RespTable.get {α : Type} (t : RespTable α) : RespType → α
  | .ackMoveQueueAdd => t.ackMoveQueueAdd
  | .ackStartMove => t.ackStartMove
  | .ackSetOrigin => t.ackSetOrigin
  | .ackMicrosteps => t.ackMicrosteps
  | .ackAutoFriction => t.ackAutoFriction
  | .status => t.status
  | .moveEnd => t.moveEnd
  | .encStatus => t.encStatus

/-! ## Layouts (R97) -/

/-- `dir` of a layout. -/
inductive FrameDir where
  | request | response
deriving DecidableEq, Repr

/-- The field names of R99 and R102; the axis of a per-axis field is its argument. -/
inductive FieldName where
  | dirMask | vel (i : Axis) | steps (i : Axis) | kp (i : Axis) | ki (i : Axis) | kd (i : Axis)
  | axisMask | base (i : Axis) | ledBits | microsteps | enable
  | status | qdepth | state | pct (i : Axis) | err (i : Axis) | abs (i : Axis)
deriving DecidableEq, Repr

/-- A field `(name, off, w, signed, mask)` of R97. -/
structure Field where
  name : FieldName
  off : Nat
  w : Nat
  signed : Bool
  mask : Byte
deriving DecidableEq, Repr

/-- The parity disciplines of R98. -/
inductive Parity where
  | none
  | stub (p : Nat)
  | byteXor (p lo hi : Nat)
  | bitXor (p k lo hi : Nat)
deriving DecidableEq, Repr

/-- `LAYOUT[T]` of R97; `len` is the rule's `L`. -/
structure Layout where
  dir : FrameDir
  len : Nat
  fields : List Field
  parity : Parity
deriving DecidableEq, Repr

/-! ## The record -/

/-- ENC_WIDTH[i]: "16 or 32" (R6). -/
inductive EncWidth where
  | w16 | w32
deriving DecidableEq, Repr

/-- The width in bits. -/
def EncWidth.bits : EncWidth → Nat
  | .w16 => 16
  | .w32 => 32

/-- The configuration record of R6 (the parameters that are not fixed). -/
structure Config where
  /-- F_HF. -/
  fHf : Nat
  /-- F_LF. -/
  fLf : Nat
  /-- QCAP. -/
  qcap : Nat
  /-- PID_SHIFT. -/
  pidShift : Nat
  /-- XFER_LEN. -/
  xferLen : Nat
  /-- MICROSTEP_RESET. -/
  microstepReset : Nat
  /-- PULSE_HIGH_TICKS. -/
  pulseHigh : Nat
  /-- PULSE_LOW_TICKS. -/
  pulseLow : Nat
  /-- EN_SETTLE_TICKS. -/
  enSettle : Nat
  /-- DIR_SETTLE_TICKS. -/
  dirSettle : Nat
  /-- ACCEL; 0 disables the ramp. -/
  accel : Nat
  /-- V_FLOOR. -/
  vFloor : Nat
  /-- I_CLAMP. -/
  iClamp : Nat
  /-- PID_OUT_MAX. -/
  pidOutMax : Nat
  /-- DEADBAND. -/
  deadband : Nat
  /-- DERIV_FILT_SHIFT. -/
  derivFiltShift : Nat
  /-- THR_MIN_FRAC, Q0.16. -/
  thrMinFrac : Nat
  /-- THR_ERR_TH. -/
  thrErrTh : Nat
  /-- F_STATIC. -/
  fStatic : Nat
  /-- F_VISC, Q0.16. -/
  fVisc : Nat
  /-- ENC_WIDTH[i]. -/
  encWidth : PerAxis EncWidth
  /-- ENC_CPR[i]. -/
  encCpr : PerAxis Nat
  /-- FULL_STEPS_PER_REV. -/
  fullStepsPerRev : Nat
  /-- CLOSED_LOOP[i]. -/
  closedLoop : PerAxis Bool
  /-- ROUTER_CAP. -/
  routerCap : Nat
  /-- RESP_FIFO_CAP. -/
  respFifoCap : Nat
  /-- RXQ_CAP. -/
  rxqCap : Nat
  /-- HDR_REQ. -/
  hdrReq : Byte
  /-- TAIL_REQ. -/
  tailReq : Byte
  /-- HDR_RESP. -/
  hdrResp : Byte
  /-- TAIL_RESP. -/
  tailResp : Byte
  /-- READY. -/
  ready : Byte
  /-- BUSY. -/
  busy : Byte
  /-- POLL. -/
  poll : Byte
  /-- TYPE[T]. -/
  reqCode : ReqTable Byte
  /-- RTYPE[T], for the requests the block answers. -/
  respCode : RespTable Byte
  /-- LAYOUT[T] of the request types. -/
  reqLayout : ReqTable Layout
  /-- LAYOUT[ACK], shared by the five acknowledgements (R102). -/
  ackLayout : Layout
  /-- LAYOUT[STATUS]. -/
  statusLayout : Layout
  /-- LAYOUT[MOVE_END] of the response. -/
  moveEndLayout : Layout
  /-- LAYOUT[ENC_STATUS]. -/
  encStatusLayout : Layout
  /-- ST_OK. -/
  stOk : Byte
  /-- ST_QUEUE_FULL. -/
  stQueueFull : Byte
  /-- ST_NOT_SAFE. -/
  stNotSafe : Byte
  /-- ST_BAD_ARG. -/
  stBadArg : Byte
  /-- ST_NOT_READY. -/
  stNotReady : Byte
  /-- ST_STOPPED. -/
  stStopped : Byte
  /-- ST_ESTOP. -/
  stEstop : Byte
deriving DecidableEq, Repr

/-! ## Free values

What the spec leaves unspecified AFTER the RESET operation (R350: "slot contents unspecified", "`spi.tx`
unspecified"; 93_implementation_defined.md K8, K9: any value). `draw` is State's counter `free`, which each RESET
advances; the constants have no body, so nothing can be proved of a particular value (log entry 5). -/

/-- A byte of `spi.tx` after a RESET. -/
opaque Config.freeTxByte (draw place : Nat) : Byte
/-- The length of the pending-response register after a RESET (it is not valid then). -/
opaque Config.freePendingLen (draw : Nat) : Byte
/-- A byte of the pending-response register after a RESET. -/
opaque Config.freePendingByte (draw place : Nat) : Byte
/-- The length of a response-FIFO slot after a RESET (none is held then). -/
opaque Config.freeFifoLen (draw slot : Nat) : Byte
/-- A byte of a response-FIFO slot after a RESET. -/
opaque Config.freeFifoByte (draw slot place : Nat) : Byte
/-- A field of a move-queue slot after a RESET (none is live then). -/
opaque Config.freeQueueWord (draw slot place : Nat) : U32

end Sys2Proof
end

