-- ==== Sys2Proof/Machine/Defaults.lean ====
section
/-! DEFINITION. What is derived from the configuration record (00_scope.md R7), the default layouts (30_encoding.md
R99, R102), and the test configuration TC with the test values TI (R6 column TC, R95, R99, R103). -/

namespace Sys2Proof

/-! ## Derived parameters (R7) -/

/-- V_MAX (R7). -/
def Config.vMax (c : Config) : Nat := c.fHf / (c.pulseHigh + c.pulseLow)

/-- ACCEL_Q16 (R7). -/
def Config.accelQ16 (c : Config) : Nat := (c.accel * 65536) / c.fLf

/-- The layout of a response type: the five acknowledgements share ACK's (R102). -/
def Config.respLayout (c : Config) : RespType → Layout
  | .ackMoveQueueAdd | .ackStartMove | .ackSetOrigin | .ackMicrosteps | .ackAutoFriction => c.ackLayout
  | .status => c.statusLayout
  | .moveEnd => c.moveEndLayout
  | .encStatus => c.encStatusLayout

/-! ## Default layouts (R99, R102) -/

/-- An unsigned field of `w` bytes. -/
def Field.unsigned (name : FieldName) (off w : Nat) : Field := ⟨name, off, w, false, 0xFF#8⟩
/-- A signed field of `w` bytes. -/
def Field.twos (name : FieldName) (off w : Nat) : Field := ⟨name, off, w, true, 0xFF#8⟩

/-- The fields of axis `i` in MOVE_QUEUE_ADD, at `b = 4 + 12a` (R99). -/
def Layout.moveAxisFields (i : Axis) : List Field :=
  let b := 4 + 12 * i.index
  [.unsigned (.vel i) b 2, .unsigned (.steps i) (b + 2) 4, .unsigned (.kp i) (b + 6) 2,
   .unsigned (.ki i) (b + 8) 2, .unsigned (.kd i) (b + 10) 2]

/-- The request layouts of R99. -/
def Layout.defaultReq : ReqTable Layout where
  moveQueueAdd := ⟨.request, 42,
    .unsigned .dirMask 3 1 :: (Layout.moveAxisFields .x ++ Layout.moveAxisFields .y ++ Layout.moveAxisFields .z),
    .byteXor 40 1 39⟩
  moveQueueStatus := ⟨.request, 5, [], .stub 3⟩
  startMove := ⟨.request, 5, [], .byteXor 3 1 2⟩
  moveEnd := ⟨.request, 5, [], .byteXor 3 1 2⟩
  setOrigin := ⟨.request, 18,
    [.unsigned .axisMask 3 1, .twos (.base .x) 4 4, .twos (.base .y) 8 4, .twos (.base .z) 12 4], .byteXor 16 1 15⟩
  encoderStatus := ⟨.request, 5, [], .stub 3⟩
  ledControl := ⟨.request, 5, [⟨.ledBits, 3, 1, false, 0x7F#8⟩], .bitXor 3 7 1 3⟩
  home := ⟨.request, 6, [.unsigned .axisMask 3 1], .byteXor 4 1 3⟩
  probeLevel := ⟨.request, 4, [], .none⟩
  microsteps := ⟨.request, 7, [.unsigned .microsteps 3 2], .byteXor 5 1 4⟩
  autoFriction := ⟨.request, 6, [.unsigned .enable 3 1], .byteXor 4 1 3⟩

/-- ACK of R102. -/
def Layout.defaultAck : Layout :=
  ⟨.response, 7, [.unsigned .status 3 1, .unsigned .qdepth 4 1], .byteXor 5 1 4⟩
/-- STATUS of R102. -/
def Layout.defaultStatus : Layout :=
  ⟨.response, 13,
    [.unsigned .state 3 1, .unsigned .qdepth 4 1, .unsigned (.pct .x) 5 1, .unsigned (.pct .y) 6 1,
     .unsigned (.pct .z) 7 1, .twos (.err .x) 8 1, .twos (.err .y) 9 1, .twos (.err .z) 10 1], .byteXor 11 1 10⟩
/-- MOVE_END of R102. -/
def Layout.defaultMoveEnd : Layout := ⟨.response, 6, [.unsigned .status 3 1], .byteXor 4 1 3⟩
/-- ENC_STATUS of R102. -/
def Layout.defaultEncStatus : Layout :=
  ⟨.response, 17, [.twos (.abs .x) 3 4, .twos (.abs .y) 7 4, .twos (.abs .z) 11 4], .byteXor 15 1 14⟩

/-! ## The test configuration TC with the test values TI (R6 column TC, R95, R99, R103) -/

/-- TC with TI. "no claim about the hardware rests on TI" (R95): State.reset and the tests use it, no statement
about every state does. -/
def Config.tc : Config where
  fHf := 50000
  fLf := 1000
  qcap := 256
  pidShift := 8
  xferLen := 42
  microstepReset := 1
  pulseHigh := 1
  pulseLow := 1
  enSettle := 0
  dirSettle := 0
  accel := 0
  vFloor := 1
  iClamp := 1000
  pidOutMax := 1000
  deadband := 0
  derivFiltShift := 2
  thrMinFrac := 16384
  thrErrTh := 100
  fStatic := 100
  fVisc := 49152
  encWidth := .same .w16
  encCpr := .same 800
  fullStepsPerRev := 200
  closedLoop := .same false
  routerCap := 42
  respFifoCap := 16
  rxqCap := 4
  hdrReq := 0xAA#8
  tailReq := 0x55#8
  hdrResp := 0xAB#8
  tailResp := 0x54#8
  ready := 0xA1#8
  busy := 0xB1#8
  poll := 0x00#8
  reqCode := ⟨1#8, 2#8, 3#8, 4#8, 5#8, 6#8, 7#8, 8#8, 9#8, 10#8, 11#8⟩
  respCode := ⟨1#8, 3#8, 5#8, 10#8, 11#8, 2#8, 4#8, 6#8⟩
  reqLayout := Layout.defaultReq
  ackLayout := Layout.defaultAck
  statusLayout := Layout.defaultStatus
  moveEndLayout := Layout.defaultMoveEnd
  encStatusLayout := Layout.defaultEncStatus
  stOk := 0#8
  stQueueFull := 1#8
  stNotSafe := 2#8
  stBadArg := 3#8
  stNotReady := 4#8
  stStopped := 5#8
  stEstop := 6#8

end Sys2Proof
end

