-- ==== Sys2Proof/Syntax.lean ====
section
/-! DEFINITION. The instructions: one constructor per row of spec/opcode_table.json, and what the port carries.

The table has three kinds of rows. `command_word`: the operations of the command port (30_encoding.md R91), with
the side operand of R90 as an argument, and the two reserved OP codes (R92). `wire_request`: a request message; its
operand is the complete frame the router recognised (41_router_dispatch.md R172 gives the handler `(frame, n)`).
`wire_response`: a response message; its operand is the response frame. -/

namespace Sys2Proof

/-- One constructor per row of the opcode table. -/
inductive Instr where
  /-- NOP (R93). -/
  | nop
  /-- RX_BYTE b (R170). -/
  | rxByte (b : Byte)
  /-- RX_TRANSFER RXBUF (R171). -/
  | rxTransfer (buf : List Byte)
  /-- TICK_HF (R260). -/
  | tickHf
  /-- TICK_LF RAW (R280). -/
  | tickLf (raw : PerAxis U32)
  /-- ESTOP (R237). -/
  | estop
  /-- FIFO_POP c (R203). -/
  | fifoPop (c : Byte)
  /-- LOAD_PENDING (R206). -/
  | loadPending
  /-- PRIME s (R207). -/
  | prime (status : Byte)
  /-- STATUS_SELECT n (R209). -/
  | statusSelect (n : Byte)
  /-- FIFO_PUSH_EXT FRAME (R210). -/
  | fifoPushExt (frame : List Byte)
  /-- SET_SAFE 0 (R240). -/
  | setSafe0
  /-- SET_SAFE 1 (R240). -/
  | setSafe1
  /-- FIFO_COUNT (R204). -/
  | fifoCount
  /-- RESET (R350). -/
  | reset
  /-- A word with OP 0xD (R92); `rest` is its ARG and DATA bits. -/
  | reservedD (rest : BitVec 12)
  /-- A word with OP 0xE (R92). -/
  | reservedE (rest : BitVec 12)
  /-- A MOVE_QUEUE_ADD request frame (R181, codec R145). -/
  | reqMoveQueueAdd (frame : List Byte)
  /-- A MOVE_QUEUE_STATUS request frame (R182, codec R146). -/
  | reqMoveQueueStatus (frame : List Byte)
  /-- A START_MOVE request frame (R183, codec R147). -/
  | reqStartMove (frame : List Byte)
  /-- A MOVE_END request frame (R184, codec R148). -/
  | reqMoveEnd (frame : List Byte)
  /-- A SET_ORIGIN request frame (R185, codec R149). -/
  | reqSetOrigin (frame : List Byte)
  /-- An ENCODER_STATUS request frame (R186, codec R150). -/
  | reqEncoderStatus (frame : List Byte)
  /-- A LED_CONTROL request frame (R189, codec R151). -/
  | reqLedControl (frame : List Byte)
  /-- A HOME request frame (R190, codec R152). -/
  | reqHome (frame : List Byte)
  /-- A PROBE_LEVEL request frame (R191, codec R153). -/
  | reqProbeLevel (frame : List Byte)
  /-- A MICROSTEPS request frame (R187, codec R154). -/
  | reqMicrosteps (frame : List Byte)
  /-- An AUTO_FRICTION request frame (R188, codec R155). -/
  | reqAutoFriction (frame : List Byte)
  /-- An ACK frame answering MOVE_QUEUE_ADD (R156). -/
  | respAckMoveQueueAdd (frame : List Byte)
  /-- An ACK frame answering START_MOVE (R156). -/
  | respAckStartMove (frame : List Byte)
  /-- An ACK frame answering SET_ORIGIN (R156). -/
  | respAckSetOrigin (frame : List Byte)
  /-- An ACK frame answering MICROSTEPS (R156). -/
  | respAckMicrosteps (frame : List Byte)
  /-- An ACK frame answering AUTO_FRICTION (R156). -/
  | respAckAutoFriction (frame : List Byte)
  /-- A STATUS response frame (R157). -/
  | respStatus (frame : List Byte)
  /-- A MOVE_END response frame (R158). -/
  | respMoveEnd (frame : List Byte)
  /-- An ENC_STATUS response frame (R159). -/
  | respEncStatus (frame : List Byte)
deriving DecidableEq, Repr

/-- The command port at one operation: the command word and the three side buses (R90). -/
structure PortWord where
  /-- The 16-bit command word. -/
  word : BitVec 16
  /-- RXBUF. -/
  rxbuf : List Byte
  /-- RAW. -/
  raw : PerAxis U32
  /-- FRAME. -/
  frame : List Byte
deriving DecidableEq, Repr

/-- A command word with the side buses idle. -/
def PortWord.ofWord (w : BitVec 16) : PortWord := ⟨w, [], .same 0#32, []⟩

/-- What the environment gives the block for one step: an operation of the command port, or one complete wire
message (the table's wire rows; log entry 3). -/
inductive PortItem where
  | command (p : PortWord)
  | message (bytes : List Byte)
deriving DecidableEq, Repr

/-- The instruction a request message of type `t` is. -/
def Instr.ofRequest (t : ReqType) (frame : List Byte) : Instr :=
  match t with
  | .moveQueueAdd => .reqMoveQueueAdd frame
  | .moveQueueStatus => .reqMoveQueueStatus frame
  | .startMove => .reqStartMove frame
  | .moveEnd => .reqMoveEnd frame
  | .setOrigin => .reqSetOrigin frame
  | .encoderStatus => .reqEncoderStatus frame
  | .ledControl => .reqLedControl frame
  | .home => .reqHome frame
  | .probeLevel => .reqProbeLevel frame
  | .microsteps => .reqMicrosteps frame
  | .autoFriction => .reqAutoFriction frame

/-- The instruction a response message of type `t` is. -/
def Instr.ofResponse (t : RespType) (frame : List Byte) : Instr :=
  match t with
  | .ackMoveQueueAdd => .respAckMoveQueueAdd frame
  | .ackStartMove => .respAckStartMove frame
  | .ackSetOrigin => .respAckSetOrigin frame
  | .ackMicrosteps => .respAckMicrosteps frame
  | .ackAutoFriction => .respAckAutoFriction frame
  | .status => .respStatus frame
  | .moveEnd => .respMoveEnd frame
  | .encStatus => .respEncStatus frame

end Sys2Proof
end

