-- ==== Sys2Proof/WellFormed.lean ====
section
/-! DEFINITION. Well-formedness: of a layout (30_encoding.md R97), of a configuration (00_scope.md R6, R8, R95, R96,
R103) and of an instruction's operands. All are Booleans, so that the kernel can run them. -/

namespace Sys2Proof

/-! ## Layouts (R97) -/

/-- The bytes a field covers. -/
def Field.bytes (f : Field) : List Nat := List.range' f.off f.w

/-- A field has a width of R76, lies in `3 .. L-2`, and only a 1-byte field has a mask (R97). -/
def Field.wf (L : Nat) (f : Field) : Bool :=
  (f.w == 1 || f.w == 2 || f.w == 4 || f.w == 8) && decide (3 ≤ f.off) && decide (f.off + f.w ≤ L - 1) &&
    (f.w == 1 || f.mask == 0xFF#8)

/-- No byte is in both fields (R97, "no two overlap"). -/
def Field.apart (f g : Field) : Bool := f.bytes.all fun b => !g.bytes.contains b

/-- The parity location is in `3 .. L-2` and shares no byte with a field (R97), but for a BIT_XOR bit, which may
share its byte with a field whose mask excludes the bit; the covered range is `1 <= lo <= hi <= L-2`; a BYTE_XOR
location is outside its range. -/
def Parity.wf (L : Nat) (fs : List Field) : Parity → Bool
  | .none => true
  | .stub p => decide (3 ≤ p) && decide (p + 2 ≤ L) && fs.all fun f => !f.bytes.contains p
  | .byteXor p lo hi =>
    decide (3 ≤ p) && decide (p + 2 ≤ L) && decide (1 ≤ lo) && decide (lo ≤ hi) && decide (hi + 2 ≤ L) &&
      decide (p < lo ∨ hi < p) && fs.all fun f => !f.bytes.contains p
  | .bitXor p k lo hi =>
    decide (3 ≤ p) && decide (p + 2 ≤ L) && decide (k < 8) && decide (1 ≤ lo) && decide (lo ≤ hi) &&
      decide (hi + 2 ≤ L) && fs.all fun f => !f.bytes.contains p || (f.w == 1 && !f.mask.getLsbD k)

/-- R97, with the field names distinct (log entry 6). -/
def Layout.wf (l : Layout) : Bool :=
  decide (frameMin ≤ l.len) && decide (l.len ≤ frameMax) && l.fields.all (Field.wf l.len) &&
    decide (l.fields.Pairwise fun f g => Field.apart f g = true) && decide (l.fields.map (·.name)).Nodup &&
    l.parity.wf l.len l.fields

/-- The fields of axis `i` in MOVE_QUEUE_ADD (R99). -/
def FieldName.ofMove (i : Axis) : List FieldName := [.vel i, .steps i, .kp i, .ki i, .kd i]

/-- The fields the records of R145 to R155 have (besides the frame id). -/
def ReqType.fields : ReqType → List FieldName
  | .moveQueueAdd => .dirMask :: (FieldName.ofMove .x ++ FieldName.ofMove .y ++ FieldName.ofMove .z)
  | .setOrigin => [.axisMask, .base .x, .base .y, .base .z]
  | .ledControl => [.ledBits]
  | .home => [.axisMask]
  | .microsteps => [.microsteps]
  | .autoFriction => [.enable]
  | .moveQueueStatus | .startMove | .moveEnd | .encoderStatus | .probeLevel => []

/-- The fields of STATUS (R157). -/
def FieldName.ofStatus : List FieldName :=
  [.state, .qdepth, .pct .x, .pct .y, .pct .z, .err .x, .err .y, .err .z]

/-- A layout has exactly the fields its records have (log entry 6). -/
def Layout.hasFields (l : Layout) (names : List FieldName) : Bool :=
  (l.fields.length == names.length) && names.all fun n => l.fields.any fun f => f.name == n

/-! ## Configurations (R6, R8) -/

/-- The constraint column of R6 and the sum of R8. -/
def Config.numbersOk (c : Config) : Bool :=
  [decide (1 ≤ c.fHf), decide (1 ≤ c.fLf), decide (1 ≤ c.qcap), decide (c.pidShift ≤ 31),
    decide (frameMin ≤ c.xferLen), decide (1 ≤ c.microstepReset), decide (c.microstepReset ≤ microstepMax),
    decide (1 ≤ c.pulseHigh), decide (1 ≤ c.vFloor), decide (c.derivFiltShift ≤ 31),
    decide (c.thrMinFrac ≤ 65536), decide (1 ≤ c.thrErrTh), decide (c.fVisc ≤ 65536),
    Axis.all.all (fun i => decide (1 ≤ c.encCpr.get i)), decide (1 ≤ c.fullStepsPerRev),
    decide (frameMax ≤ c.routerCap), decide (1 ≤ c.respFifoCap), decide (1 ≤ c.rxqCap)].all id

/-- The marker and sentinel constraints of R95. -/
def Config.markersOk (c : Config) : Bool :=
  [c.hdrReq != c.tailReq, c.hdrResp != c.tailResp, c.hdrResp != c.hdrReq, c.tailResp != c.tailReq,
    c.ready != c.busy, [c.hdrReq, c.tailReq, c.hdrResp, c.tailResp, c.ready, c.busy].all (· != c.poll),
    [c.hdrReq, c.tailReq, c.hdrResp, c.tailResp].all (fun m => m != c.ready && m != c.busy)].all id

/-- R96: the codes of each direction are pairwise distinct; R103: so are the status codes. -/
def Config.codesOk (c : Config) : Bool :=
  [decide (ReqType.all.map c.reqCode.get).Nodup, decide (RespType.all.map c.respCode.get).Nodup,
    decide [c.stOk, c.stQueueFull, c.stNotSafe, c.stBadArg, c.stNotReady, c.stStopped, c.stEstop].Nodup].all id

/-- R8: "every `LAYOUT[T]` satisfies 30_encoding.md rule R97", of its direction and with its record's fields. -/
def Config.layoutsOk (c : Config) : Bool :=
  ReqType.all.all (fun t => (c.reqLayout.get t).wf && (c.reqLayout.get t).dir == .request &&
      (c.reqLayout.get t).hasFields t.fields) &&
    [(c.ackLayout, [FieldName.status, .qdepth]), (c.statusLayout, FieldName.ofStatus), (c.moveEndLayout, [.status]),
      (c.encStatusLayout, [.abs .x, .abs .y, .abs .z])].all
      (fun p => p.1.wf && p.1.dir == .response && p.1.hasFields p.2)

/-- R26, R45, R46: the index and count registers are wide enough for their buffers (u16 for the move queue, u8 for
the router and the response FIFO); R28: a u32 hold counter can hold each hold (log entry 7). -/
def Config.widthsOk (c : Config) : Bool :=
  [decide (c.qcap < 2 ^ 16), decide (c.routerCap < 2 ^ 8), decide (c.respFifoCap < 2 ^ 8),
    decide (c.pulseHigh < 2 ^ 32), decide (c.pulseLow < 2 ^ 32), decide (c.enSettle < 2 ^ 32),
    decide (c.dirSettle < 2 ^ 32)].all id

/-- R8: a configuration the model accepts. -/
def Config.wf (c : Config) : Bool :=
  [c.numbersOk, c.markersOk, c.codesOk, c.layoutsOk, c.widthsOk].all id

/-! ## Instructions -/

/-- A request frame of type `t`: header and type byte as the table's match has them, of a length the router can
find (R170: at least 4 bytes, at most the accumulator). -/
def wfRequest (c : Config) (t : ReqType) (f : List Byte) : Bool :=
  decide (frameMin ≤ f.length) && decide (f.length ≤ c.routerCap) && f[0]? == some c.hdrReq &&
    f[1]? == some (c.reqCode.get t)

/-- A response frame of type `t`: header and type byte, of a length the response FIFO holds (R200). -/
def wfResponse (c : Config) (t : RespType) (f : List Byte) : Bool :=
  decide (frameMin ≤ f.length) && decide (f.length ≤ frameMax) && f[0]? == some c.hdrResp &&
    f[1]? == some (c.respCode.get t)

/-- An instruction the port can carry: RXBUF is XFER_LEN bytes, FRAME 0 to 255 bytes (R90), a wire message has the
header and the type of its row. -/
def Instr.wf (c : Config) : Instr → Bool
  | .rxTransfer buf => buf.length == c.xferLen
  | .fifoPushExt frame => decide (frame.length ≤ 255)
  | .reqMoveQueueAdd f => wfRequest c .moveQueueAdd f
  | .reqMoveQueueStatus f => wfRequest c .moveQueueStatus f
  | .reqStartMove f => wfRequest c .startMove f
  | .reqMoveEnd f => wfRequest c .moveEnd f
  | .reqSetOrigin f => wfRequest c .setOrigin f
  | .reqEncoderStatus f => wfRequest c .encoderStatus f
  | .reqLedControl f => wfRequest c .ledControl f
  | .reqHome f => wfRequest c .home f
  | .reqProbeLevel f => wfRequest c .probeLevel f
  | .reqMicrosteps f => wfRequest c .microsteps f
  | .reqAutoFriction f => wfRequest c .autoFriction f
  | .respAckMoveQueueAdd f => wfResponse c .ackMoveQueueAdd f
  | .respAckStartMove f => wfResponse c .ackStartMove f
  | .respAckSetOrigin f => wfResponse c .ackSetOrigin f
  | .respAckMicrosteps f => wfResponse c .ackMicrosteps f
  | .respAckAutoFriction f => wfResponse c .ackAutoFriction f
  | .respStatus f => wfResponse c .status f
  | .respMoveEnd f => wfResponse c .moveEnd f
  | .respEncStatus f => wfResponse c .encStatus f
  | .nop | .rxByte _ | .tickHf | .tickLf _ | .estop | .fifoPop _ | .loadPending | .prime _ | .statusSelect _
  | .setSafe0 | .setSafe1 | .fifoCount | .reset | .reservedD _ | .reservedE _ => true

end Sys2Proof
end

