-- ==== Sys2Proof/Decode.lean ====
section
/-! DEFINITION. Decoding what the port carries into an instruction (30_encoding.md R90 to R94, R172 for a message's
type), total on any word and any bytes, refusing by name; and the encoder. -/

namespace Sys2Proof

/-- Why a port item spells no instruction. -/
inductive DecodeError where
  /-- "a word whose ARG is nonzero" (R92). -/
  | argNonzero
  /-- "a word whose DATA is nonzero for an operation whose DATA column above is 0" (R92). -/
  | dataNonzero
  /-- "a `SET_SAFE` whose DATA is neither 0x00 nor 0x01" (R92). -/
  | setSafeData
  /-- RXBUF is not XFER_LEN bytes (R90: the bus has no other length). -/
  | rxbufLength
  /-- FRAME is longer than 255 bytes (R90: the bus has no other length). -/
  | frameLength
  /-- A message of a length no frame can have (log entry 3). -/
  | messageLength
  /-- A message whose header and type byte are those of no row of the table (log entry 3). -/
  | messageUnknown
deriving DecidableEq, Repr

/-! ## Command words -/

/-- `OP = w[15:12]` (R90). -/
def opOf (w : BitVec 16) : BitVec 4 := w.extractLsb' 12 4
/-- `ARG = w[11:8]` (R90). -/
def argOf (w : BitVec 16) : BitVec 4 := w.extractLsb' 8 4
/-- `DATA = w[7:0]` (R90). -/
def dataOf (w : BitVec 16) : Byte := w.extractLsb' 0 8

/-- An operation whose DATA column is 0 (R91, R92). -/
def noData (d : Byte) (i : Instr) : Except DecodeError Instr :=
  if d = 0#8 then .ok i else .error .dataNonzero

/-- The command word and its side buses (R91, R92). A reserved OP is its own row whatever its other bits. -/
def decodeCommand (c : Config) (p : PortWord) : Except DecodeError Instr :=
  let w := p.word
  let d := dataOf w
  if opOf w = 0xD#4 then .ok (.reservedD (w.extractLsb' 0 12))
  else if opOf w = 0xE#4 then .ok (.reservedE (w.extractLsb' 0 12))
  else if argOf w ≠ 0#4 then .error .argNonzero
  else if opOf w = 0x0#4 then noData d .nop
  else if opOf w = 0x1#4 then .ok (.rxByte d)
  else if opOf w = 0x2#4 then
    if d ≠ 0#8 then .error .dataNonzero
    else if p.rxbuf.length = c.xferLen then .ok (.rxTransfer p.rxbuf) else .error .rxbufLength
  else if opOf w = 0x3#4 then noData d .tickHf
  else if opOf w = 0x4#4 then noData d (.tickLf p.raw)
  else if opOf w = 0x5#4 then noData d .estop
  else if opOf w = 0x6#4 then .ok (.fifoPop d)
  else if opOf w = 0x7#4 then noData d .loadPending
  else if opOf w = 0x8#4 then .ok (.prime d)
  else if opOf w = 0x9#4 then .ok (.statusSelect d)
  else if opOf w = 0xA#4 then
    if d ≠ 0#8 then .error .dataNonzero
    else if p.frame.length ≤ 255 then .ok (.fifoPushExt p.frame) else .error .frameLength
  else if opOf w = 0xB#4 then
    if d = 0#8 then .ok .setSafe0 else if d = 1#8 then .ok .setSafe1 else .error .setSafeData
  else if opOf w = 0xC#4 then noData d .fifoCount
  else noData d .reset

/-! ## Wire messages -/

/-- The request type of a type byte: "If some request type T has `TYPE[T] = frame[1]`" (R172). -/
def requestType (c : Config) (code : Byte) : Option ReqType := ReqType.all.find? fun t => c.reqCode.get t == code

/-- The response type of a type byte (R102: byte 1 is RTYPE[T]). -/
def responseType (c : Config) (code : Byte) : Option RespType := RespType.all.find? fun t => c.respCode.get t == code

/-- A wire message: the header byte tells a request from a response (R95, R96), the type byte gives the row. The rest
of the frame is the instruction's operand, checked by its own decoder when it runs (R175). -/
def decodeMessage (c : Config) (f : List Byte) : Except DecodeError Instr :=
  match f with
  | h :: code :: _ =>
    if h = c.hdrReq then
      match requestType c code with
      | some t =>
        if frameMin ≤ f.length ∧ f.length ≤ c.routerCap then .ok (.ofRequest t f) else .error .messageLength
      | none => .error .messageUnknown
    else if h = c.hdrResp then
      match responseType c code with
      | some t =>
        if frameMin ≤ f.length ∧ f.length ≤ frameMax then .ok (.ofResponse t f) else .error .messageLength
      | none => .error .messageUnknown
    else .error .messageUnknown
  | _ => .error .messageLength

/-- What the port carries, as an instruction. -/
def decode (c : Config) : PortItem → Except DecodeError Instr
  | .command p => decodeCommand c p
  | .message f => decodeMessage c f

/-! ## The encoder -/

/-- `OP<<12 | DATA` (R107). -/
def commandWord (op : BitVec 4) (d : Byte) : BitVec 16 := op ++ 0#4 ++ d

/-- A command with idle side buses. -/
def plainCommand (op : BitVec 4) (d : Byte) : PortItem := .command (.ofWord (commandWord op d))

/-- The port item of a well-formed instruction, from the table of R91. -/
def encode : Instr → PortItem
  | .nop => plainCommand 0x0#4 0#8
  | .rxByte b => plainCommand 0x1#4 b
  | .rxTransfer buf => .command { PortWord.ofWord (commandWord 0x2#4 0#8) with rxbuf := buf }
  | .tickHf => plainCommand 0x3#4 0#8
  | .tickLf raw => .command { PortWord.ofWord (commandWord 0x4#4 0#8) with raw := raw }
  | .estop => plainCommand 0x5#4 0#8
  | .fifoPop n => plainCommand 0x6#4 n
  | .loadPending => plainCommand 0x7#4 0#8
  | .prime st => plainCommand 0x8#4 st
  | .statusSelect n => plainCommand 0x9#4 n
  | .fifoPushExt frame => .command { PortWord.ofWord (commandWord 0xA#4 0#8) with frame := frame }
  | .setSafe0 => plainCommand 0xB#4 0#8
  | .setSafe1 => plainCommand 0xB#4 1#8
  | .fifoCount => plainCommand 0xC#4 0#8
  | .reset => plainCommand 0xF#4 0#8
  | .reservedD rest => .command (.ofWord (0xD#4 ++ rest))
  | .reservedE rest => .command (.ofWord (0xE#4 ++ rest))
  | .reqMoveQueueAdd f => .message f
  | .reqMoveQueueStatus f => .message f
  | .reqStartMove f => .message f
  | .reqMoveEnd f => .message f
  | .reqSetOrigin f => .message f
  | .reqEncoderStatus f => .message f
  | .reqLedControl f => .message f
  | .reqHome f => .message f
  | .reqProbeLevel f => .message f
  | .reqMicrosteps f => .message f
  | .reqAutoFriction f => .message f
  | .respAckMoveQueueAdd f => .message f
  | .respAckStartMove f => .message f
  | .respAckSetOrigin f => .message f
  | .respAckMicrosteps f => .message f
  | .respAckAutoFriction f => .message f
  | .respStatus f => .message f
  | .respMoveEnd f => .message f
  | .respEncStatus f => .message f

/-! ## The words of the opcode table -/

/-- Byte `k` of a frame whose bits are `w`, read as the table reads them: 16-bit words, the first byte of each in
its upper half ("match/mask apply to bytes 0..1 (big-endian)"). -/
def tableByte (w k : Nat) : Byte := BitVec.ofNat 8 (w >>> (16 * (k / 2) + if k % 2 = 0 then 8 else 0))

/-- The frame of `n` bytes whose bits are `w`. -/
def tableFrame (w n : Nat) : List Byte := (List.range n).map (tableByte w)

/-- The length of the message whose first two bytes are `h` and `code`: its layout's L; `none` for no row of the
table. -/
def messageLen (c : Config) (h code : Byte) : Option Nat :=
  if h = c.hdrReq then (requestType c code).map fun t => (c.reqLayout.get t).len
  else if h = c.hdrResp then (responseType c code).map fun t => (c.respLayout t).len
  else none

/-- The port item of a table word. A word that spells a message of the table is that message, the bits above `nbits`
zero, of its layout's length; any other is a command word with zeros on the side buses. (No word that is legal on the
command port starts like a message: in TI those have a nonzero ARG.) -/
def tableItem (c : Config) (nbits w : Nat) : PortItem :=
  let v := w % 2 ^ nbits
  match messageLen c (tableByte v 0) (tableByte v 1) with
  | some n => .message (tableFrame v n)
  | none => .command ⟨BitVec.ofNat 16 v, List.replicate c.xferLen 0#8, .same 0#32, []⟩

/-- The instruction the decoder reads from a table word, with the table's own values TI for the open bytes. -/
def decodeTableWord (nbits w : Nat) : Option Instr := (decode Config.tc (tableItem Config.tc nbits w)).toOption

end Sys2Proof
end

