-- ==== Sys2Proof/Machine/State.lean ====
section
/-! DEFINITION. The state of the block (10_state.md R20 to R60), the model's own fields beside it, and the state
after reset (70_reset_and_hazards.md R350). -/

namespace Sys2Proof.Machine

/-! ## Engine (R23, R24) -/

/-- The engine states of R23. Paused and Error are entered by no rule (R251). -/
inductive Fsm where
  | idle | queued | running | stopping | done | paused | error
deriving DecidableEq, Repr

/-- The active-segment registers (R24). -/
structure Seg where
  active : Bool
  fid : Byte
  dirMask : Byte
deriving DecidableEq, Repr

/-- A move segment (R25). -/
structure MoveSegment where
  steps : PerAxis U32
  vel : PerAxis U32
  kp : PerAxis U16
  ki : PerAxis U16
  kd : PerAxis U16
  dirMask : Byte
  fid : Byte
deriving DecidableEq, Repr

/-- The content of a move-queue slot at `State.reset`, which R26 leaves unspecified (log entry 4). -/
def MoveSegment.zero : MoveSegment := ⟨.same 0#32, .same 0#32, .same 0#16, .same 0#16, .same 0#16, 0#8, 0#8⟩

/-- The move queue (R26); `slots` is the rule's `slot[0..QCAP-1]`. -/
structure Queue where
  slots : List MoveSegment
  head : U16
  tail : U16
  count : U16
  qsum : PerAxis U64
deriving DecidableEq, Repr

/-! ## Axes, pins, encoders (R28, R37, R38) -/

/-- AxisState (R28). `integ`, `ePrev`, `dFilt`, `err` are i32 and `encSegStart` is i64 (read with `BitVec.toInt`). -/
structure AxisState where
  total : U32
  emitted : U32
  targetSteps : U32
  vCmd : U32
  kp : U16
  ki : U16
  kd : U16
  highHold : U32
  lowHold : U32
  enSettle : U32
  dirSettle : U32
  phase : U32
  incr : U32
  vTarget : U32
  vActual : U32
  accFrac : U32
  braking : Bool
  integ : U32
  ePrev : U32
  dFilt : U32
  err : U32
  encSegStart : U64
deriving DecidableEq, Repr

/-- "Created at init (zeroed)" (R28), and what a stop leaves (R231). -/
def AxisState.zero : AxisState where
  total := 0#32
  emitted := 0#32
  targetSteps := 0#32
  vCmd := 0#32
  kp := 0#16
  ki := 0#16
  kd := 0#16
  highHold := 0#32
  lowHold := 0#32
  enSettle := 0#32
  dirSettle := 0#32
  phase := 0#32
  incr := 0#32
  vTarget := 0#32
  vActual := 0#32
  accFrac := 0#32
  braking := false
  integ := 0#32
  ePrev := 0#32
  dFilt := 0#32
  err := 0#32
  encSegStart := 0#64

/-- The three lines of an axis (R37). -/
structure Pin where
  step : Bool
  dir : Bool
  en : Bool
deriving DecidableEq, Repr

/-- The encoder record of an axis (R38). `cum`, `origin`, `base` are i64. -/
structure Enc where
  cum : U64
  lastRaw : U32
  origin : U64
  base : U64
deriving DecidableEq, Repr

/-- The control registers (R40 to R43). `master = none` is NONE = 0xFF. -/
structure Ctl where
  microsteps : U16
  frictionEn : Bool
  safe : Bool
  master : Option Axis
deriving DecidableEq, Repr

/-! ## Router, response FIFO, SPI registers, counters (R45 to R49) -/

/-- The router (R45). -/
structure Router where
  buf : List Byte
  idx : Byte
deriving DecidableEq, Repr

/-- A response-FIFO slot (R46): `data` has FRAME_MAX bytes. -/
structure FifoSlot where
  len : Byte
  data : List Byte
deriving DecidableEq, Repr

/-- The response FIFO (R46). -/
structure RespFifo where
  slots : List FifoSlot
  head : Byte
  count : Byte
deriving DecidableEq, Repr

/-- The pending-response register (R47). -/
structure Pending where
  valid : Bool
  len : Byte
  data : List Byte
deriving DecidableEq, Repr

/-- The SPI registers (R47, R48). -/
structure Spi where
  pending : Pending
  tx : List Byte
deriving DecidableEq, Repr

/-- The logging counters (R49). -/
structure Counters where
  routerOvf : U32
  frameDrop : U32
  unhandled : U32
  respDrop : U32
  poll : U32
deriving DecidableEq, Repr

/-! ## Outputs: results and events (R13, R14) -/

/-- The four error kinds (R320). -/
inductive ErrorKind where
  | invalidArgument | frameError | rangeError | allocationError
deriving DecidableEq, Repr

/-- The four outcomes of PRIME (R208). -/
inductive PrimeOutcome where
  | ready | busy | responseInjected | unrecognized
deriving DecidableEq, Repr

/-- The output value `v` of `Ok(v)` (R14), by the operation that gives it. -/
inductive OutVal where
  /-- `Ok()`. -/
  | unit
  /-- FIFO_POP's `Ok((len, bytes))` (R203). -/
  | popped (len : Byte) (bytes : List Byte)
  /-- FIFO_COUNT's `Ok(rf.count)` (R204). -/
  | count (n : Byte)
  /-- LOAD_PENDING's `Ok(true)` or `Ok(false)` (R206). -/
  | loaded (b : Bool)
  /-- PRIME's `Ok(outcome)` (R207). -/
  | primed (o : PrimeOutcome)
  /-- STATUS_SELECT's READY or BUSY byte (R209). -/
  | status (b : Byte)
deriving DecidableEq, Repr

/-- The result of an operation (R14). -/
inductive OpResult where
  | ok (v : OutVal)
  | err (k : ErrorKind)
deriving DecidableEq, Repr

/-- The output events (R13). -/
inductive Event where
  | setDir (i : Axis) (d : Bool)
  | drvEnable (i : Axis)
  | drvDisable (i : Axis)
  | stepHigh (i : Axis)
  | stepLow (i : Axis)
  | extService (t : ReqType) (frame : List Byte)
deriving DecidableEq, Repr

/-! ## The state -/

/-- R20's record, then the model's own fields: the configuration (an argument of the model, R6, that no operation
writes), what the environment will put on the port (R22, one item a step), the result of the last operation (R14), the
output trace (R13), and the counter of free values (log entries 1, 2, 5). -/
structure State where
  /-- The configuration (R6; not state of the block, R53). -/
  cfg : Config
  /-- R23. -/
  fsm : Fsm
  /-- R24. -/
  seg : Seg
  /-- R26. -/
  q : Queue
  /-- R28. -/
  ax : PerAxis AxisState
  /-- R37. -/
  pin : PerAxis Pin
  /-- R38. -/
  enc : PerAxis Enc
  /-- R40 to R43. -/
  ctl : Ctl
  /-- R45. -/
  rt : Router
  /-- R46. -/
  rf : RespFifo
  /-- R47, R48. -/
  spi : Spi
  /-- R49. -/
  cnt : Counters
  /-- The items the environment puts on the port, the next first; an empty list is an idle port. -/
  port : List PortItem
  /-- The result of the last operation (R14). -/
  result : OpResult
  /-- The output trace, oldest first (R13). -/
  trace : List Event
  /-- How many times free values were drawn. -/
  free : Nat
deriving DecidableEq, Repr

/-- The state after power-on with configuration `c` (R350). The reset contents of the move-queue slots, the FIFO
slots, the pending register's data and `spi.tx` are zero where the spec gives none (log entry 4). -/
def State.resetWith (c : Config) : State where
  cfg := c
  fsm := .idle
  seg := ⟨false, 0#8, 0#8⟩
  q := ⟨List.replicate c.qcap MoveSegment.zero, 0#16, 0#16, 0#16, .same 0#64⟩
  ax := .same .zero
  pin := .same ⟨false, false, false⟩
  enc := .same ⟨0#64, 0#32, 0#64, 0#64⟩
  ctl := ⟨BitVec.ofNat 16 c.microstepReset, false, true, none⟩
  rt := ⟨List.replicate c.routerCap 0#8, 0#8⟩
  rf := ⟨List.replicate c.respFifoCap ⟨0#8, List.replicate frameMax 0#8⟩, 0#8, 0#8⟩
  spi := ⟨⟨false, 0#8, List.replicate frameMax 0#8⟩, List.replicate c.xferLen 0#8⟩
  cnt := ⟨0#32, 0#32, 0#32, 0#32, 0#32⟩
  port := []
  result := .ok .unit
  trace := []
  free := 0

/-- The machine right after power-on, in the test configuration (log entry 1). -/
def State.reset : State := .resetWith .tc

/-! ## How a step can stop -/

/-- Why the machine stops with a fault. -/
inductive Fault where
  /-- Raised by `step` when a buffer of the state has not its declared length, or an index register or a length register
  points outside its buffer, so that a rule would access a buffer out of its bounds: "A model that finds an out-of-bounds access has found
  an error in the spec and faults" (R75, K2). Safe: no step from reset reaches it, and where it stops nothing is claimed. -/
  | outOfBounds
  /-- Raised by `step` in a state that breaks an invariant the spec states: an engine-internal consistency violation is a
  fault, since "no reachable state has one" (R324, K2). Safe: no step from reset reaches it, and where it stops nothing is
  claimed. -/
  | inconsistent
deriving DecidableEq, Repr

/-- Why the machine refuses. -/
inductive Refusal where
  /-- Raised by `exec` for an instruction without a meaning. No arm raises it now. Safe. -/
  | notModelled (mnemonic : String)
  /-- Raised by RESERVED_D: "a model refuses them (no step, the refusal mark set)" (R92). Safe. -/
  | reservedOpD
  /-- Raised by RESERVED_E (R92). Safe. -/
  | reservedOpE
  /-- Raised by `step` for a port item that spells no operation and no message (R92, R325). Safe. -/
  | illegalItem (why : DecodeError)
  /-- Raised by `step` under a configuration that breaks a constraint: "A model refuses a configuration that breaks a
  constraint" (R8, K11). Safe. -/
  | configInvalid
  /-- Raised by `step` in an engine state no rule leaves between operations (Paused, Error, Stopping): such a state "is
  outside the spec" (R23, R324, K1). Safe. -/
  | engineOutsideSpec
deriving DecidableEq, Repr

end Sys2Proof.Machine
end

