-- ==== Sys2Proof/Machine/Ops.lean ====
section
/-! DEFINITION. The shared operations: arithmetic (00_scope.md R10), results and errors (60_exceptions.md R320, R329: the
block's only form of exception is an error result), events, the response FIFO (42_fifo_handshake.md R201 to R203) and the
move queue (43_motion_fsm.md R220 to R222). -/

namespace Sys2Proof.Machine

/-! ## Arithmetic (R10) -/

/-- `clamp(x, lo, hi) = min(max(x, lo), hi)`. -/
def clampInt (x lo hi : Int) : Int := min (max x lo) hi

/-- `asr(x, s) = floor(x / 2^s)`: `/` on `Int` with a positive divisor is the floor. -/
def asr (x : Int) (s : Nat) : Int := x / (2 ^ s : Nat)

/-- `quot(x, y)`: division truncating toward zero. -/
def quot (x y : Int) : Int := x.tdiv y

/-- Bit `i` of an axis mask (R101). -/
def maskBit (m : Byte) (i : Axis) : Bool := m.getLsbD i.index

/-- `d[0..n-1] <- f[0..n-1]` with `n = len(f)`: the rest of `d` keeps its bytes. -/
def overlay (f d : List Byte) : List Byte := f ++ d.drop f.length

/-! ## Results and events -/

/-- `return Ok(v)` (R14). -/
def State.ok (v : OutVal) (s : State) : State := { s with result := .ok v }

/-- `raise K`: the operation ends with the error result and no state change beyond what stands before the raise (R13,
R320). There is no trap entry and no return from one (R329). -/
def State.raise (k : ErrorKind) (s : State) : State := { s with result := .err k }

/-- `emit E` (R13). -/
def State.emit (e : Event) (s : State) : State := { s with trace := s.trace ++ [e] }

/-- A per-axis loop in index order (R82, D54). -/
def State.forAxes (f : Axis → State → State) (s : State) : State := f .z (f .y (f .x s))

/-! ## Named writes of one component -/

/-- Writes `fsm`. -/
def State.setFsm (f : Fsm) (s : State) : State := { s with fsm := f }
/-- Writes `seg`. -/
def State.setSeg (g : Seg) (s : State) : State := { s with seg := g }
/-- Writes `q`. -/
def State.setQ (q : Queue) (s : State) : State := { s with q := q }
/-- Writes `ax`. -/
def State.setAx (a : PerAxis AxisState) (s : State) : State := { s with ax := a }
/-- Writes `ax[i]`. -/
def State.setAxis (i : Axis) (a : AxisState) (s : State) : State := { s with ax := s.ax.set i a }
/-- Writes `pin[i]`. -/
def State.setPin (i : Axis) (p : Pin) (s : State) : State := { s with pin := s.pin.set i p }
/-- Writes `enc[i]`. -/
def State.setEnc (i : Axis) (e : Enc) (s : State) : State := { s with enc := s.enc.set i e }
/-- Writes `ctl`. -/
def State.setCtl (c : Ctl) (s : State) : State := { s with ctl := c }
/-- Writes `rt`. -/
def State.setRt (r : Router) (s : State) : State := { s with rt := r }
/-- Writes `rf`. -/
def State.setRf (r : RespFifo) (s : State) : State := { s with rf := r }
/-- Writes `spi`. -/
def State.setSpi (p : Spi) (s : State) : State := { s with spi := p }
/-- Writes `cnt`. -/
def State.setCnt (c : Counters) (s : State) : State := { s with cnt := c }

/-! ## Logging counters (R49): each wraps mod 2^32 -/

/-- `cnt.router_ovf + 1` (R170). -/
def State.countOvf (s : State) : State := s.setCnt { s.cnt with routerOvf := s.cnt.routerOvf + 1#32 }
/-- `cnt.frame_drop + 1` (R175). -/
def State.countFrameDrop (s : State) : State := s.setCnt { s.cnt with frameDrop := s.cnt.frameDrop + 1#32 }
/-- `cnt.unhandled + 1` (R174). -/
def State.countUnhandled (s : State) : State := s.setCnt { s.cnt with unhandled := s.cnt.unhandled + 1#32 }
/-- `cnt.resp_drop + 1` (R202). -/
def State.countRespDrop (s : State) : State := s.setCnt { s.cnt with respDrop := s.cnt.respDrop + 1#32 }
/-- `cnt.poll + 1` (R171). -/
def State.countPoll (s : State) : State := s.setCnt { s.cnt with poll := s.cnt.poll + 1#32 }

/-! ## Response FIFO (R201 to R203) -/

/-- The ring index of the `j`-th oldest held frame. -/
def fifoIndex (c : Config) (rf : RespFifo) (j : Nat) : Nat := (rf.head.toNat + j) % c.respFifoCap

/-- The slot at ring index `k`. -/
def fifoSlot (rf : RespFifo) (k : Nat) : FifoSlot := rf.slots.getD k ⟨0#8, []⟩

/-- `push(frame, n)` (R201); an absent frame is `none`, and `n` is the frame's length. -/
def State.push (frame : Option (List Byte)) (s : State) : Except ErrorKind State :=
  match frame with
  | none => .error .invalidArgument
  | some f =>
    if f.length = 0 ∨ f.length > frameMax then .error .invalidArgument
    else if s.rf.count.toNat = s.cfg.respFifoCap then .error .allocationError
    else
      let k := fifoIndex s.cfg s.rf s.rf.count.toNat
      let slot := fifoSlot s.rf k
      .ok (s.setRf { s.rf with
        slots := s.rf.slots.set k ⟨BitVec.ofNat 8 f.length, overlay f slot.data⟩
        count := s.rf.count + 1#8 })

/-- `push_resp(frame)`: a push whose failure loses the frame and is counted (R201, R202). -/
def State.pushResp (frame : List Byte) (s : State) : State :=
  match s.push (some frame) with
  | .ok t => t
  | .error _ => s.countRespDrop

/-- What a pop answers. -/
structure Popped where
  /-- The copied length, 0 if empty. -/
  len : Byte
  /-- The copied bytes. -/
  bytes : List Byte
  /-- The state after it. -/
  state : State

/-- FIFO_POP's function (R203), for a buffer of `cap` bytes. -/
def State.pop (cap : Nat) (s : State) : Except ErrorKind Popped :=
  if s.rf.count = 0#8 then .ok ⟨0#8, [], s⟩
  else
    let slot := fifoSlot s.rf s.rf.head.toNat
    if cap < slot.len.toNat then .error .rangeError
    else
      .ok ⟨slot.len, slot.data.take slot.len.toNat,
        s.setRf { s.rf with
          head := BitVec.ofNat 8 ((s.rf.head.toNat + 1) % s.cfg.respFifoCap)
          count := s.rf.count - 1#8 }⟩

/-! ## Move queue (R220 to R222) -/

/-- The slot at ring index `k`. -/
def queueSlot (q : Queue) (k : Nat) : MoveSegment := q.slots.getD k .zero

/-- `enqueue(s)` (R220). -/
def State.enqueue (g : MoveSegment) (s : State) : Except ErrorKind State :=
  if s.q.count.toNat = s.cfg.qcap then .error .rangeError
  else
    let q : Queue :=
      { slots := s.q.slots.set s.q.tail.toNat g
        head := s.q.head
        tail := BitVec.ofNat 16 ((s.q.tail.toNat + 1) % s.cfg.qcap)
        count := s.q.count + 1#16
        qsum := .of fun i => s.q.qsum.get i + (g.steps.get i).setWidth 64 }
    let ax : PerAxis AxisState := .of fun i =>
      if g.steps.get i ≠ 0#32 then { s.ax.get i with braking := false } else s.ax.get i
    let fsm := if s.fsm = .idle ∨ s.fsm = .done then Fsm.queued else s.fsm
    .ok (((s.setQ q).setAx ax).setFsm fsm)

/-- The segment `dequeue()` returns (R221). -/
def State.headSegment (s : State) : MoveSegment := queueSlot s.q s.q.head.toNat

/-- What `dequeue()` leaves (R221); called only when `q.count > 0`. -/
def State.dequeue (s : State) : State :=
  s.setQ { s.q with
    head := BitVec.ofNat 16 ((s.q.head.toNat + 1) % s.cfg.qcap)
    count := s.q.count - 1#16
    qsum := .of fun i => s.q.qsum.get i - (s.headSegment.steps.get i).setWidth 64 }

/-- `clear_queue()` (R222). -/
def State.clearQueue (s : State) : State :=
  s.setQ { s.q with head := 0#16, tail := 0#16, count := 0#16, qsum := .same 0#64 }

end Sys2Proof.Machine
end

