-- ==== Sys2Proof/Machine/Operands.lean ====
section
/-! DEFINITION. Operand assembly of wire frames: the buffer primitives (00_scope.md R12), the parity disciplines
(40_codec.md R130 to R133), field marshalling (R104, R135), the generic decoder and encoder (R140, R141), and the typed
reading of a record's fields (R145 to R159). -/

namespace Sys2Proof.Machine

/-! ## Big-endian access (R12, R72) -/

/-- Byte `k` of a buffer. -/
def byteAt (f : List Byte) (k : Nat) : Byte := f.getD k 0#8

/-- `MemRead(b, off, n)`, most significant byte first. -/
def memRead (f : List Byte) (off n : Nat) : Nat :=
  (List.range n).foldl (fun acc k => acc * 256 + (byteAt f (off + k)).toNat) 0

/-- `MemWrite(b, off, n, v)`: byte `k` of the field is bits `8(n-1-k)+7 .. 8(n-1-k)` of `v`. -/
def memWrite (f : List Byte) (off n v : Nat) : List Byte :=
  (List.range n).foldl (fun g k => g.set (off + k) (BitVec.ofNat 8 (v / 256 ^ (n - 1 - k)))) f

/-! ## Parity (R130 to R133) -/

/-- `byte_xor(f, lo, hi)` (R130). -/
def byteXor (f : List Byte) (lo hi : Nat) : Byte :=
  (List.range' lo (hi + 1 - lo)).foldl (fun acc j => acc ^^^ byteAt f j) 0#8

/-- The XOR of the bits of a byte. -/
def bitsXor (b : Byte) : Bool := (List.range 8).foldl (fun acc k => acc ^^ b.getLsbD k) false

/-- `b` with bit `k` made `v`. -/
def withBit (b : Byte) (k : Nat) (v : Bool) : Byte :=
  (b &&& ~~~(1#8 <<< k)) ||| (if v then 1#8 <<< k else 0#8)

/-- `bit_xor(f, p, k, lo, hi)`, leaving out bit `k` of byte `p` (R131). -/
def bitXor (f : List Byte) (p k lo hi : Nat) : Bool :=
  (List.range' lo (hi + 1 - lo)).foldl
    (fun acc j => acc ^^ bitsXor (if j = p then withBit (byteAt f j) k false else byteAt f j)) false

/-- `check_parity(par, f)` (R132). -/
def checkParity (par : Parity) (f : List Byte) : Bool :=
  match par with
  | .none => true
  | .stub _ => true
  | .byteXor p lo hi => byteAt f p == byteXor f lo hi
  | .bitXor p k lo hi => (byteAt f p).getLsbD k == bitXor f p k lo hi

/-- `write_parity(par, f)` (R133). -/
def writeParity (par : Parity) (f : List Byte) : List Byte :=
  match par with
  | .none => f
  | .stub p => f.set p 0#8
  | .byteXor p lo hi => f.set p (byteXor f lo hi)
  | .bitXor p k lo hi => f.set p (withBit (byteAt f p) k (bitXor f p k lo hi))

/-! ## Fields (R104, R135) -/

/-- A decoded record: the frame id and the value of each field of the layout. -/
structure Record where
  fid : Byte
  vals : List (FieldName × Int)
deriving DecidableEq, Repr

/-- `rec.name`; 0 for a field the layout has not. -/
def Record.get (r : Record) (n : FieldName) : Int :=
  ((r.vals.find? fun p => p.1 == n).map (·.2)).getD 0

/-- Reading a field (R135): `MemRead`, the mask of a 1-byte field, the sign extension of a signed one. -/
def readField (f : List Byte) (d : Field) : Int :=
  let v := memRead f d.off d.w
  let v := if d.w = 1 then v &&& d.mask.toNat else v
  if d.signed then (BitVec.ofNat (8 * d.w) v).toInt else v

/-- Writing a field (R135): a value wider than its field is cut to its low bits; a 1-byte field writes its mask's bits
only. -/
def writeField (r : Record) (f : List Byte) (d : Field) : List Byte :=
  let v := (r.get d.name % (2 ^ (8 * d.w) : Nat)).toNat
  if d.w = 1 then
    f.set d.off ((byteAt f d.off &&& ~~~d.mask) ||| (BitVec.ofNat 8 v &&& d.mask))
  else memWrite f d.off d.w v

/-! ## The generic decoder and encoder (R140, R141) -/

/-- `decode_T(f, n)` for the layout `lay` and the header, type and tail bytes of its direction (R140); an absent frame is
`none`. -/
def decodeFrame (lay : Layout) (hdr code tail : Byte) (frame : Option (List Byte)) : Except ErrorKind Record :=
  match frame with
  | none => .error .invalidArgument
  | some f =>
    if f.length < lay.len then .error .invalidArgument
    else if f.length ≠ lay.len then .error .frameError
    else if byteAt f 0 ≠ hdr then .error .frameError
    else if byteAt f 1 ≠ code then .error .frameError
    else if byteAt f (lay.len - 1) ≠ tail then .error .frameError
    else if !checkParity lay.parity f then .error .frameError
    else .ok ⟨byteAt f 2, lay.fields.map fun d => (d.name, readField f d)⟩

/-- The frame `encode_T` builds (R141): uncovered bytes 0, the parity last. -/
def encodeFrame (lay : Layout) (hdr code tail : Byte) (r : Record) : List Byte :=
  let f := List.replicate lay.len 0#8
  let f := ((f.set 0 hdr).set 1 code).set 2 r.fid
  let f := lay.fields.foldl (writeField r) f
  let f := f.set (lay.len - 1) tail
  writeParity lay.parity f

/-- `encode_T(rec, d, cap)` (R141): the destination after the write and the number of bytes written; an absent
destination is `none`, and `cap` is the destination's length. -/
def encodeInto (lay : Layout) (hdr code tail : Byte) (r : Record) (dest : Option (List Byte)) :
    Except ErrorKind (List Byte × Nat) :=
  match dest with
  | none => .error .invalidArgument
  | some d =>
    if d.length < lay.len then .error .invalidArgument
    else .ok (overlay (encodeFrame lay hdr code tail r) d, lay.len)

/-- The decoder of request type `t`. -/
def decodeReq (c : Config) (t : ReqType) (frame : List Byte) : Except ErrorKind Record :=
  decodeFrame (c.reqLayout.get t) c.hdrReq (c.reqCode.get t) c.tailReq (some frame)

/-- The encoder of request type `t`. -/
def encodeReq (c : Config) (t : ReqType) (r : Record) : List Byte :=
  encodeFrame (c.reqLayout.get t) c.hdrReq (c.reqCode.get t) c.tailReq r

/-- The decoder of response type `t`. -/
def decodeResp (c : Config) (t : RespType) (frame : List Byte) : Except ErrorKind Record :=
  decodeFrame (c.respLayout t) c.hdrResp (c.respCode.get t) c.tailResp (some frame)

/-- The encoder of response type `t`. -/
def encodeResp (c : Config) (t : RespType) (r : Record) : List Byte :=
  encodeFrame (c.respLayout t) c.hdrResp (c.respCode.get t) c.tailResp r

/-! ## Typed records (R145 to R159) -/

/-- A field cut to `w` bits: the conversion to a u8, u16, u32 or i32 of the record. -/
def Record.bits (r : Record) (w : Nat) (n : FieldName) : BitVec w := BitVec.ofInt w (r.get n)

/-- The MoveSegment of a MOVE_QUEUE_ADD record (R145): "`dir_mask = DIR_MASK AND 0x07`". -/
def segmentOf (r : Record) : MoveSegment where
  steps := .of fun i => r.bits 32 (.steps i)
  vel := .of fun i => r.bits 32 (.vel i)
  kp := .of fun i => r.bits 16 (.kp i)
  ki := .of fun i => r.bits 16 (.ki i)
  kd := .of fun i => r.bits 16 (.kd i)
  dirMask := r.bits 8 .dirMask &&& 0x07#8
  fid := r.fid

/-- The MOVE_QUEUE_ADD record of a segment: bits 7:3 of DIR_MASK are "written 0 on encode" (R106). -/
def recordOfSegment (g : MoveSegment) : Record where
  fid := g.fid
  vals := (.dirMask, ((g.dirMask &&& 0x07#8).toNat : Int)) :: Axis.all.flatMap fun i =>
    [(.vel i, ((g.vel.get i).toNat : Int)), (.steps i, ((g.steps.get i).toNat : Int)),
     (.kp i, ((g.kp.get i).toNat : Int)), (.ki i, ((g.ki.get i).toNat : Int)), (.kd i, ((g.kd.get i).toNat : Int))]

/-- `axis_mask = AXIS_MASK AND 0x07` (R149, R152). -/
def axisMaskOf (r : Record) : Byte := r.bits 8 .axisMask &&& 0x07#8

/-- `base[i]: i32` (R149), sign-extended to i64 (R185). -/
def baseOf (r : Record) (i : Axis) : U64 := (r.bits 32 (.base i)).signExtend 64

/-- A record with the frame id alone (R146, R147, R148, R150, R153). -/
def recordOfFid (fid : Byte) : Record := ⟨fid, []⟩

/-- The SET_ORIGIN record (R149). -/
def recordOfOrigin (fid axisMask : Byte) (base : PerAxis U32) : Record :=
  ⟨fid, (.axisMask, ((axisMask &&& 0x07#8).toNat : Int)) :: Axis.all.map fun i => (.base i, (base.get i).toInt)⟩

/-- The LED_CONTROL record (R151). -/
def recordOfLed (fid ledBits : Byte) : Record := ⟨fid, [(.ledBits, ((ledBits &&& 0x7F#8).toNat : Int))]⟩

/-- The HOME record (R152). -/
def recordOfHome (fid axisMask : Byte) : Record := ⟨fid, [(.axisMask, ((axisMask &&& 0x07#8).toNat : Int))]⟩

/-- The MICROSTEPS record (R154). -/
def recordOfMicrosteps (fid : Byte) (m : U16) : Record := ⟨fid, [(.microsteps, (m.toNat : Int))]⟩

/-- The AUTO_FRICTION record (R155). -/
def recordOfFriction (fid enable : Byte) : Record := ⟨fid, [(.enable, (enable.toNat : Int))]⟩

/-- The ACK record (R156). -/
def recordOfAck (fid status qdepth : Byte) : Record :=
  ⟨fid, [(.status, (status.toNat : Int)), (.qdepth, (qdepth.toNat : Int))]⟩

/-- The MOVE_END response record (R158). -/
def recordOfMoveEnd (fid status : Byte) : Record := ⟨fid, [(.status, (status.toNat : Int))]⟩

/-- The ENC_STATUS record (R159): each absolute position cut to 32 bits, as an i32. -/
def recordOfEncStatus (fid : Byte) (pos : PerAxis U64) : Record :=
  ⟨fid, Axis.all.map fun i => (.abs i, ((pos.get i).setWidth 32).toInt)⟩

end Sys2Proof.Machine
end

