-- ==== Sys2Proof/Machine/Flags.lean ====
section
/-! DEFINITION. "The block has no condition codes or flags register" (10_state.md R50). What it computes in their place:
the codes of states, errors and outcomes (R23, R43, R211, R320), the depth byte, and the status snapshot
(43_motion_fsm.md R253). -/

namespace Sys2Proof.Machine

/-- The u8 code of an engine state (R23). -/
def fsmCode : Fsm → Byte
  | .idle => 0#8
  | .queued => 1#8
  | .running => 2#8
  | .stopping => 3#8
  | .done => 4#8
  | .paused => 5#8
  | .error => 6#8

/-- The u8 of `ctl.master` (R43). -/
def masterCode : Option Axis → Byte
  | some .x => 0#8
  | some .y => 1#8
  | some .z => 2#8
  | none => 0xFF#8

/-- The command-port code of an error kind (R320). -/
def errorCode : ErrorKind → Nat
  | .invalidArgument => 1
  | .frameError => 2
  | .rangeError => 3
  | .allocationError => 4

/-- The command-port code of a result (R320): `Ok = 0`. -/
def resultCode : OpResult → Nat
  | .ok _ => 0
  | .err k => errorCode k

/-- The outcome codes of PRIME (R211). -/
def outcomeCode : PrimeOutcome → Nat
  | .ready => 0
  | .busy => 1
  | .responseInjected => 2
  | .unrecognized => 3

/-- `depth()`, `min(q.count, 255)` (41_router_dispatch.md). -/
def State.depth (s : State) : Byte := BitVec.ofNat 8 (min s.q.count.toNat 255)

/-- `pct[i]` of the snapshot (R253). -/
def percentDone (a : AxisState) : Byte :=
  if a.total = 0#32 then 100#8 else BitVec.ofNat 8 ((a.emitted.toNat * 100) / a.total.toNat)

/-- `err[i]` of the snapshot, an i8 (R253). -/
def errorByte (a : AxisState) : Int := clampInt a.err.toInt (-128) 127

/-- The STATUS record of a frame id and the snapshot (R157, R253). -/
def State.snapshot (fid : Byte) (s : State) : Record :=
  ⟨fid, [(.state, ((fsmCode s.fsm).toNat : Int)), (.qdepth, (s.depth.toNat : Int))] ++
    Axis.all.map (fun i => (.pct i, ((percentDone (s.ax.get i)).toNat : Int))) ++
    Axis.all.map (fun i => (.err i, errorByte (s.ax.get i)))⟩

/-- `rel(i) = cum - origin` (R39), mod 2^64. -/
def Enc.rel (e : Enc) : U64 := e.cum - e.origin

/-- `abs(i) = base + rel(i)` (R39), mod 2^64. -/
def Enc.abs (e : Enc) : U64 := e.base + e.rel

end Sys2Proof.Machine
end

