-- ==== Sys2Proof/Machine/Motion.lean ====
section
/-! DEFINITION. The motion engine: segment begin and stop (43_motion_fsm.md R230, R231), start and end of a move (R233,
R236), and the operations ESTOP (R237) and SET_SAFE (R240). The velocity maps of 45_control_loop.md R292 and R293 stand
here because a begin uses them. -/

namespace Sys2Proof.Machine

/-! ## Velocity to increment (R292, R293) -/

/-- `out_vel(v)` (R292); `on` is `ctl.friction_en`. -/
def outVel (c : Config) (on : Bool) (v : Nat) : Nat :=
  if on then (if v ≤ c.fStatic then 0 else ((v - c.fStatic) * c.fVisc) / 65536) else v

/-- `vel_to_incr(v)` (R293), with `B = PULSE_HIGH_TICKS + PULSE_LOW_TICKS - 1`. -/
def velToIncr (c : Config) (v : Nat) : Nat :=
  if v = 0 then 0
  else if v ≥ c.vMax then one
  else (v * one) / (c.fHf - (c.pulseHigh + c.pulseLow - 1) * v)

/-! ## Begin (R230) -/

/-- The AxisState of axis `i` after a begin (R230), but for the settle holds. -/
def beginLoad (c : Config) (friction : Bool) (g : MoveSegment) (chained : Bool) (i : Axis) (cum : U64)
    (a : AxisState) : AxisState :=
  let working := decide (g.steps.get i ≠ 0#32)
  let a :=
    { a with
      total := g.steps.get i
      emitted := 0#32
      targetSteps := 0#32
      vCmd := g.vel.get i
      kp := g.kp.get i
      ki := g.ki.get i
      kd := g.kd.get i
      phase := 0#32
      integ := 0#32
      ePrev := 0#32
      dFilt := 0#32
      err := 0#32
      encSegStart := cum
      vTarget := BitVec.ofNat 32 (min (g.vel.get i).toNat c.vMax) }
  let a := if !chained || !working then { a with vActual := 0#32, accFrac := 0#32, braking := false } else a
  let a := if c.accel = 0 ∧ working then { a with vActual := a.vTarget } else a
  { a with incr := if working then BitVec.ofNat 32 (velToIncr c (outVel c friction a.vActual.toNat)) else 0#32 }

/-- The settle holds after a begin (R230): a changed direction starts one, a newly enabled driver the other. -/
def beginSettle (c : Config) (g : MoveSegment) (i : Axis) (p : Pin) (a : AxisState) : AxisState :=
  let a := if maskBit g.dirMask i ≠ p.dir then { a with dirSettle := BitVec.ofNat 32 c.dirSettle } else a
  if g.steps.get i ≠ 0#32 ∧ p.en = false then { a with enSettle := BitVec.ofNat 32 c.enSettle } else a

/-- The pins after a begin (R230): the driver is on exactly when the axis has steps; the step line is unchanged. -/
def beginPin (g : MoveSegment) (i : Axis) (p : Pin) : Pin :=
  { p with dir := maskBit g.dirMask i, en := decide (g.steps.get i ≠ 0#32) }

/-- The events of a begin on axis `i` (R230). -/
def beginEvents (g : MoveSegment) (i : Axis) (p : Pin) : List Event :=
  [.setDir i (maskBit g.dirMask i)] ++
    (if g.steps.get i ≠ 0#32 ∧ p.en = false then [.drvEnable i] else []) ++
    (if g.steps.get i = 0#32 ∧ p.en = true then [.drvDisable i] else [])

/-- One axis of `begin_segment(s, chained)` (R230). -/
def beginAxis (g : MoveSegment) (chained : Bool) (i : Axis) (s : State) : State :=
  let p := s.pin.get i
  let a := beginSettle s.cfg g i p
    (beginLoad s.cfg s.ctl.frictionEn g chained i (s.enc.get i).cum (s.ax.get i))
  let s := (s.setAxis i a).setPin i (beginPin g i p)
  { s with trace := s.trace ++ beginEvents g i p }

/-- `begin_segment(s, chained)` (R230). -/
def beginSegment (g : MoveSegment) (chained : Bool) (s : State) : State :=
  (s.forAxes (beginAxis g chained)).setSeg ⟨true, g.fid, g.dirMask⟩

/-! ## Stop (R231) -/

/-- The events of a stop on axis `i` (R231). -/
def stopEvents (i : Axis) (p : Pin) : List Event :=
  (if p.step then [.stepLow i] else []) ++ (if p.en then [.drvDisable i] else [])

/-- One axis of `stop_all_axes()`: the direction line keeps its level (R231). -/
def stopAxis (i : Axis) (s : State) : State :=
  let p := s.pin.get i
  let s := (s.setAxis i .zero).setPin i { p with step := false, en := false }
  { s with trace := s.trace ++ stopEvents i p }

/-- `stop_all_axes()` (R231): `seg.fid` and `seg.dir_mask` keep their values. -/
def stopAllAxes (s : State) : State :=
  let s := s.forAxes stopAxis
  s.setSeg { s.seg with active := false }

/-! ## Start and end of a move (R233, R236) -/

/-- Dequeues and begins the next segment (R233, R267). -/
def beginNext (chained : Bool) (s : State) : State := beginSegment s.headSegment chained s.dequeue

/-- The state `start_move()` leaves (R233). -/
def startMove (s : State) : State :=
  if s.seg.active then s.setFsm .running
  else if s.q.count ≠ 0#16 then (beginNext false s).setFsm .running
  else s

/-- The status `start_move()` returns (R233). -/
def startStatus (s : State) : Byte :=
  if s.seg.active then s.cfg.stOk else if s.q.count ≠ 0#16 then s.cfg.stOk else s.cfg.stNotReady

/-- Pushes `MOVE_END(fid, status)` (R158). -/
def pushMoveEnd (fid status : Byte) (s : State) : State :=
  s.pushResp (encodeResp s.cfg .moveEnd (recordOfMoveEnd fid status))

/-- `move_end(fid, status)` (R236): Stopping is entered and left within the operation. -/
def moveEnd (fid status : Byte) (s : State) : State :=
  let s := s.setFsm .stopping
  let s := stopAllAxes s
  let s := s.clearQueue
  let s := pushMoveEnd fid status s
  s.setFsm .idle

/-! ## Operations -/

/-- ESTOP (R237): the notification's frame id is `seg.fid` when a segment is active and 0 otherwise. -/
def execEstop (s : State) : Host.Outcome State Fault Refusal :=
  .next ((moveEnd (if s.seg.active then s.seg.fid else 0#8) s.cfg.stEstop s).ok .unit)

/-- `ctl.safe <- v` (R240). -/
def setSafe (v : Bool) (s : State) : State := s.setCtl { s.ctl with safe := v }

/-- SET_SAFE 0 (R240). -/
def execSetSafe0 (s : State) : Host.Outcome State Fault Refusal := .next ((setSafe false s).ok .unit)

/-- SET_SAFE 1 (R240). -/
def execSetSafe1 (s : State) : Host.Outcome State Fault Refusal := .next ((setSafe true s).ok .unit)

end Sys2Proof.Machine
end

