-- ==== Sys2Proof/Machine/Control.lean ====
section
/-! DEFINITION. TICK_LF, the low-frequency control tick (45_control_loop.md R280 to R293). -/

namespace Sys2Proof.Machine

/-! ## Encoder sampling (R281) -/

/-- The signed delta of a counter of `w` bits: `sext_W((r' - last_raw) mod 2^W)`, `r' = r mod 2^W` (R281). -/
def encDelta (w : Nat) (last raw : U32) : Int := (raw.setWidth w - last.setWidth w).toInt

/-- `encoder_update(i, r)` on the record (R281). -/
def sampledEnc (w : EncWidth) (raw : U32) (e : Enc) : Enc :=
  { e with
    cum := e.cum + BitVec.ofInt 64 (encDelta w.bits e.lastRaw raw)
    lastRaw := (raw.setWidth w.bits).setWidth 32 }

/-- `encoder_update(i, r)` (R281). -/
def encoderUpdate (raw : PerAxis U32) (i : Axis) (s : State) : State :=
  s.setEnc i (sampledEnc (s.cfg.encWidth.get i) (raw.get i) (s.enc.get i))

/-! ## Position error (R284, R285) -/

/-- `enc_to_steps(i, c)` (R284). -/
def encToSteps (c : Config) (microsteps : U16) (i : Axis) (counts : Int) : Int :=
  quot (counts * c.fullStepsPerRev * microsteps.toNat) (c.encCpr.get i)

/-- The steps moved in the commanded direction since the segment began (R285). -/
def measured (s : State) (i : Axis) : Int :=
  let moved := (s.enc.get i).cum.toInt - (s.ax.get i).encSegStart.toInt
  encToSteps s.cfg s.ctl.microsteps i (if (s.pin.get i).dir then moved else -moved)

/-- `position_error(i)` (R285). -/
def positionError (s : State) (i : Axis) : Int :=
  if (s.ax.get i).total = 0#32 ∨ s.cfg.closedLoop.get i = false then 0
  else clampInt ((s.ax.get i).targetSteps.toNat - measured s i) (-2 ^ 31) (2 ^ 31 - 1)

/-- `ax[i].err <- position_error(i)` (R280). -/
def errorUpdate (i : Axis) (s : State) : State :=
  s.setAxis i { s.ax.get i with err := BitVec.ofInt 32 (positionError s i) }

/-! ## Master axis (R286) -/

/-- `R_i = (total_i - emitted_i) + q.qsum[i]` (R286, R290). -/
def remaining (s : State) (i : Axis) : Int :=
  ((s.ax.get i).total.toNat - (s.ax.get i).emitted.toNat : Int) + (s.q.qsum.get i).toNat

/-- A candidate: `total > 0` and `emitted < total` (R286). -/
def outstanding (a : AxisState) : Bool := a.total != 0#32 && decide (a.emitted < a.total)

/-- Axis `j` has strictly less progress than axis `i`, by cross-multiplication (R286). -/
def lessProgress (s : State) (j i : Axis) : Bool :=
  decide ((s.ax.get j).emitted.toNat * (s.ax.get i).total.toNat <
    (s.ax.get i).emitted.toNat * (s.ax.get j).total.toNat)

/-- The better of the choice so far and axis `j`: `better` is strict, so a tie stays with the lower index. -/
def choose (qualifies : Axis → Bool) (better : Axis → Axis → Bool) (m : Option Axis) (j : Axis) : Option Axis :=
  if qualifies j then
    match m with
    | none => some j
    | some i => if better j i then some j else some i
  else m

/-- `select_master()` (R286). -/
def selectMaster (s : State) : Option Axis :=
  match Axis.all.foldl (choose (fun i => outstanding (s.ax.get i)) (lessProgress s)) none with
  | some m => some m
  | none =>
    Axis.all.foldl (choose (fun i => decide (remaining s i > 0)) fun j i => decide (remaining s j > remaining s i)) none

/-! ## Throttle and PID (R287, R289) -/

/-- `throttle(tv, e)` (R287). -/
def throttle (c : Config) (tv : Nat) (e : Int) : Nat :=
  let a := min e.natAbs c.thrErrTh
  let f := one - ((one - c.thrMinFrac) * a) / c.thrErrTh
  (tv * f) / 65536

/-- The deadbanded error of `pid(i)` (R289). -/
def deadbanded (c : Config) (a : AxisState) : Int :=
  if a.err.toInt.natAbs ≤ c.deadband then 0 else a.err.toInt

/-- The filtered derivative of `pid(i)` (R289). -/
def derivative (c : Config) (a : AxisState) : Int :=
  clampInt (a.dFilt.toInt + asr ((deadbanded c a - a.ePrev.toInt) - a.dFilt.toInt) c.derivFiltShift)
    (-2 ^ 31) (2 ^ 31 - 1)

/-- The raw output of `pid(i)`, from the integral before this tick's update (R289). -/
def pidRaw (c : Config) (a : AxisState) : Int :=
  asr (a.kp.toNat * deadbanded c a + a.ki.toNat * a.integ.toInt + a.kd.toNat * derivative c a) c.pidShift

/-- The output of `pid(i)` (R289). -/
def pidOut (c : Config) (a : AxisState) : Int := clampInt (pidRaw c a) (-c.pidOutMax) c.pidOutMax

/-- The axis after `pid(i)` (R289): the integral moves only while the output is not saturated. -/
def pidUpdate (c : Config) (a : AxisState) : AxisState :=
  { a with
    dFilt := BitVec.ofInt 32 (derivative c a)
    integ :=
      if pidOut c a = pidRaw c a then
        BitVec.ofInt 32 (clampInt (a.integ.toInt + deadbanded c a) (-c.iClamp) c.iClamp)
      else a.integ
    ePrev := BitVec.ofInt 32 (deadbanded c a) }

/-! ## Ramp (R290, R291) -/

/-- `brake(v) = (v * v) / (2 * ACCEL)` (R290). -/
def brakeDistance (c : Config) (v : Nat) : Nat := (v * v) / (2 * c.accel)

/-- `dec[i]` of `brake_decision(m)` (R290): the master's decision when there is one. -/
def brakeDecision (s : State) (m : Option Axis) (i : Axis) : Bool :=
  let j := m.getD i
  s.cfg.accel != 0 && decide (remaining s j ≤ brakeDistance s.cfg (s.ax.get j).vActual.toNat)

/-- `ramp(i, tv, dec)` (R291). -/
def ramp (c : Config) (tv : Nat) (dec : Bool) (a : AxisState) : AxisState :=
  if c.accel = 0 then { a with vActual := BitVec.ofNat 32 tv }
  else
    let v := a.vActual.toNat
    let braking := a.braking || (dec && v != 0)
    let acc := BitVec.ofNat 32 (a.accFrac.toNat + c.accelQ16)
    let units := acc.toNat / 65536
    let v' :=
      if braking then max (v - units) (min v c.vFloor)
      else if v < tv then min (v + units) tv
      else if v > tv then max (v - units) tv
      else v
    { a with
      braking := braking
      accFrac := BitVec.ofNat 32 (acc.toNat % 65536)
      vActual := BitVec.ofNat 32 v' }

/-! ## The tick (R280) -/

/-- The control velocity of the tick, `tv'` (R287, R288). -/
def controlVelocity (c : Config) (throttled : Bool) (a : AxisState) : Nat :=
  let tv := if throttled then throttle c a.vTarget.toNat a.err.toInt else a.vTarget.toNat
  (clampInt (tv + pidOut c a) 0 c.vMax).toNat

/-- Steps (3) to (7) on one axis with `total > 0` (R280). -/
def controlAxis (c : Config) (friction throttled dec : Bool) (a : AxisState) : AxisState :=
  let r := ramp c (controlVelocity c throttled a) dec (pidUpdate c a)
  { r with incr := BitVec.ofNat 32 (velToIncr c (outVel c friction r.vActual.toNat)) }

/-- Steps (3) to (7) on axis `i` (R280). -/
def controlUpdate (m : Option Axis) (dec : PerAxis Bool) (i : Axis) (s : State) : State :=
  let a := s.ax.get i
  if a.total = 0#32 then s
  else s.setAxis i (controlAxis s.cfg s.ctl.frictionEn (m.isSome && m != some i) (dec.get i) a)

/-- `TICK_LF(raw)` (R280, R282). -/
def tickLf (raw : PerAxis U32) (s : State) : State :=
  let s := s.forAxes (encoderUpdate raw)
  if s.fsm ≠ .running then s.setCtl { s.ctl with master := none }
  else
    let s := s.forAxes errorUpdate
    let m := selectMaster s
    let s := s.setCtl { s.ctl with master := m }
    let dec := PerAxis.of (brakeDecision s m)
    s.forAxes (controlUpdate m dec)

/-- TICK_LF (R280). -/
def execTickLf (raw : PerAxis U32) (s : State) : Host.Outcome State Fault Refusal := .next ((tickLf raw s).ok .unit)

end Sys2Proof.Machine
end

