-- ==== Sys2Proof/Machine/Fifo.lean ====
section
/-! DEFINITION. The response FIFO's operations and the SPI handshake (42_fifo_handshake.md R203 to R211). -/

namespace Sys2Proof.Machine

/-- FIFO_POP c (R203): on RangeError the frame is retained. -/
def execFifoPop (c : Byte) (s : State) : Host.Outcome State Fault Refusal :=
  match s.pop c.toNat with
  | .ok p => .next (p.state.ok (.popped p.len p.bytes))
  | .error k => .next (s.raise k)

/-- FIFO_COUNT (R204). -/
def execFifoCount (s : State) : Host.Outcome State Fault Refusal := .next (s.ok (.count s.rf.count))

/-- FIFO_PUSH_EXT FRAME (R210): the result of `push`, reported to the caller. -/
def execFifoPushExt (frame : List Byte) (s : State) : Host.Outcome State Fault Refusal :=
  match s.push (some frame) with
  | .ok t => .next (t.ok .unit)
  | .error k => .next (s.raise k)

/-- The pending register holding a popped frame (R206): the bytes past its length keep what they were. -/
def loadedPending (p : Popped) (d : Pending) : Pending := ⟨true, p.len, overlay p.bytes d.data⟩

/-- LOAD_PENDING (R206): a pop with capacity FRAME_MAX into the pending register, "which cannot raise RangeError"; no error
of it reaches the port (R322). -/
def execLoadPending (s : State) : Host.Outcome State Fault Refusal :=
  if s.spi.pending.valid = false ∧ s.rf.count ≠ 0#8 then
    match s.pop frameMax with
    | .ok p => .next ((p.state.setSpi { s.spi with pending := loadedPending p s.spi.pending }).ok (.loaded true))
    | .error _ => .next (s.ok (.loaded false))
  else .next (s.ok (.loaded false))

/-- What `prime_fn` answers. -/
structure Primed where
  /-- The transmit buffer. -/
  buf : List Byte
  /-- The outcome. -/
  outcome : PrimeOutcome
  /-- Whether the response was consumed. -/
  consumed : Bool
deriving DecidableEq, Repr

/-- `prime_fn(s, P, cap)` (R208); READY and BUSY are the configuration's. A response is examined before the status byte,
one of length 0 counts as absent, and the padding after an injected response is READY whatever `s` is. -/
def primeFn (c : Config) (s : Byte) (p : Option (List Byte)) (cap : Nat) : Primed :=
  let plain := List.replicate cap s
  let idle : Primed :=
    if s = c.ready then ⟨plain, .ready, false⟩
    else if s = c.busy then ⟨plain, .busy, false⟩
    else ⟨plain, .unrecognized, false⟩
  match p with
  | none => idle
  | some f =>
    if f.length = 0 then idle
    else if f.length ≤ cap then ⟨f ++ List.replicate (cap - f.length) c.ready, .responseInjected, true⟩
    else ⟨plain, .unrecognized, false⟩

/-- The pending response, when valid (R207). -/
def pendingFrame (p : Pending) : Option (List Byte) := if p.valid then some (p.data.take p.len.toNat) else none

/-- PRIME s (R207). -/
def execPrime (st : Byte) (s : State) : Host.Outcome State Fault Refusal :=
  let r := primeFn s.cfg st (pendingFrame s.spi.pending) s.cfg.xferLen
  let pending := if r.consumed then { s.spi.pending with valid := false } else s.spi.pending
  .next ((s.setSpi ⟨pending, r.buf⟩).ok (.primed r.outcome))

/-- The status-select function (R209). -/
def statusSelect (c : Config) (n : Nat) : Byte := if n ≥ c.rxqCap then c.busy else c.ready

/-- STATUS_SELECT n (R209). -/
def execStatusSelect (n : Byte) (s : State) : Host.Outcome State Fault Refusal :=
  .next (s.ok (.status (statusSelect s.cfg n.toNat)))

end Sys2Proof.Machine
end

