-- ==== Sys2Proof/Machine/Pulse.lean ====
section
/-! DEFINITION. TICK_HF, the DDA step-pulse generator (44_dda_pulse.md R260 to R267). -/

namespace Sys2Proof.Machine

/-- A hold counter one tick later. -/
def countDown (h : U32) : U32 := if h = 0#32 then 0#32 else h - 1#32

/-- Whether the step line falls in this tick: the high hold reaches 0 (R261). -/
def pulseEnds (a : AxisState) : Bool := a.highHold == 1#32

/-- Phase 1 on the counters of an axis (R261): a low hold starts in the tick its high hold ends, so it is not decremented
in that tick. -/
def closeHolds (c : Config) (a : AxisState) : AxisState :=
  let b :=
    if a.highHold ≠ 0#32 then
      if pulseEnds a then { a with highHold := 0#32, lowHold := BitVec.ofNat 32 c.pulseLow }
      else { a with highHold := a.highHold - 1#32 }
    else { a with lowHold := countDown a.lowHold }
  { b with enSettle := countDown b.enSettle, dirSettle := countDown b.dirSettle }

/-- `close_pulse_and_settle(i)` (R261). -/
def closePulse (i : Axis) (s : State) : State :=
  let a := s.ax.get i
  let s := s.setAxis i (closeHolds s.cfg a)
  if pulseEnds a then (s.setPin i { s.pin.get i with step := false }).emit (.stepLow i) else s

/-- Eligibility (R262). -/
def eligible (a : AxisState) : Bool :=
  a.total != 0#32 && decide (a.emitted < a.total) && a.highHold == 0#32 && a.lowHold == 0#32 &&
    a.enSettle == 0#32 && a.dirSettle == 0#32

/-- The phase after the increment is added (R263). -/
def phaseSum (a : AxisState) : Nat := a.phase.toNat + a.incr.toNat

/-- Whether the sum passes unity (R263). -/
def stepsNow (a : AxisState) : Bool := decide (phaseSum a ≥ one)

/-- The axis after an accumulation (R263). -/
def accumulated (c : Config) (a : AxisState) : AxisState :=
  if stepsNow a then
    { a with
      phase := BitVec.ofNat 32 (phaseSum a - one)
      highHold := BitVec.ofNat 32 c.pulseHigh
      emitted := a.emitted + 1#32
      targetSteps := a.targetSteps + 1#32 }
  else { a with phase := BitVec.ofNat 32 (phaseSum a) }

/-- Phase 2 on one axis: `accumulate(i)` if it is eligible (R262, R263). -/
def accumulate (i : Axis) (s : State) : State :=
  let a := s.ax.get i
  if eligible a then
    let s := s.setAxis i (accumulated s.cfg a)
    if stepsNow a then (s.setPin i { s.pin.get i with step := true }).emit (.stepHigh i) else s
  else s

/-- Every axis has `emitted = total` (R267). -/
def segmentDone (s : State) : Bool := Axis.all.all fun i => (s.ax.get i).emitted == (s.ax.get i).total

/-- No axis has its step line high: every `high_hold = 0` (R267). -/
def linesLow (s : State) : Bool := Axis.all.all fun i => (s.ax.get i).highHold == 0#32

/-- `completion_check()` (R267). -/
def completionCheck (s : State) : State :=
  if segmentDone s then
    if s.q.count ≠ 0#16 then beginNext true s
    else if linesLow s then
      let f := s.seg.fid
      pushMoveEnd f s.cfg.stOk ((stopAllAxes s).setFsm .done)
    else s
  else s

/-- `TICK_HF()` (R260). -/
def tickHf (s : State) : State :=
  let s := s.forAxes closePulse
  if s.fsm = .running then completionCheck (s.forAxes accumulate) else s

/-- TICK_HF (R260). -/
def execTickHf (s : State) : Host.Outcome State Fault Refusal := .next ((tickHf s).ok .unit)

end Sys2Proof.Machine
end

