-- ==== Sys2Proof/Machine/Responses.lean ====
section
/-! DEFINITION. The response messages (40_codec.md R156 to R159, 30_encoding.md R102). As an instruction a response frame
is read with the decoder of its type (R140) and sent: its record is encoded (R141) and pushed with `push_resp` (R201,
R202), which is how the block sends every response of its own (log entry 3). The error of a frame that does not decode is
absorbed, the frame dropped and counted: only FIFO_POP and FIFO_PUSH_EXT return an error to the port (R322). -/

namespace Sys2Proof.Machine

/-- Decodes and sends a response of type `t`. -/
def sendResponse (t : RespType) (f : List Byte) (s : State) : State :=
  match decodeResp s.cfg t f with
  | .ok r => (s.pushResp (encodeResp s.cfg t r)).ok .unit
  | .error _ => s.countFrameDrop.ok .unit

/-- ACK of MOVE_QUEUE_ADD (R156). -/
def execRespAckMoveQueueAdd (f : List Byte) (s : State) : Host.Outcome State Fault Refusal :=
  .next (sendResponse .ackMoveQueueAdd f s)
/-- ACK of START_MOVE (R156). -/
def execRespAckStartMove (f : List Byte) (s : State) : Host.Outcome State Fault Refusal :=
  .next (sendResponse .ackStartMove f s)
/-- ACK of SET_ORIGIN (R156). -/
def execRespAckSetOrigin (f : List Byte) (s : State) : Host.Outcome State Fault Refusal :=
  .next (sendResponse .ackSetOrigin f s)
/-- ACK of MICROSTEPS (R156). -/
def execRespAckMicrosteps (f : List Byte) (s : State) : Host.Outcome State Fault Refusal :=
  .next (sendResponse .ackMicrosteps f s)
/-- ACK of AUTO_FRICTION (R156). -/
def execRespAckAutoFriction (f : List Byte) (s : State) : Host.Outcome State Fault Refusal :=
  .next (sendResponse .ackAutoFriction f s)
/-- STATUS (R157). -/
def execRespStatus (f : List Byte) (s : State) : Host.Outcome State Fault Refusal :=
  .next (sendResponse .status f s)
/-- MOVE_END (R158). -/
def execRespMoveEnd (f : List Byte) (s : State) : Host.Outcome State Fault Refusal :=
  .next (sendResponse .moveEnd f s)
/-- ENC_STATUS (R159). -/
def execRespEncStatus (f : List Byte) (s : State) : Host.Outcome State Fault Refusal :=
  .next (sendResponse .encStatus f s)

end Sys2Proof.Machine
end

