-- ==== Sys2Proof/Machine/Handlers.lean ====
section
/-! DEFINITION. The request messages: one handler per request type (41_router_dispatch.md R175 to R191). A request
instruction is the handler run with the frame the router found (R172). -/

namespace Sys2Proof.Machine

/-! ## Shared -/

/-- R175: a handler first decodes its frame; a frame that does not decode is dropped and counted. -/
def withDecoded (t : ReqType) (frame : List Byte) (k : Record → State → State) (s : State) : State :=
  match decodeReq s.cfg t frame with
  | .ok r => k r s
  | .error _ => s.countFrameDrop

/-- `push_resp(encode_ACK(RTYPE[T], fid, status, depth()))`, the depth taken from the state it is applied to. -/
def respondAck (t : RespType) (fid status : Byte) (s : State) : State :=
  s.pushResp (encodeResp s.cfg t (recordOfAck fid status s.depth))

/-! ## Handlers -/

/-- H_MOVE_QUEUE_ADD on the decoded segment (R181). -/
def addSegment (g : MoveSegment) (s : State) : State :=
  if s.ctl.safe = false then respondAck .ackMoveQueueAdd g.fid s.cfg.stNotSafe s
  else
    match s.enqueue g with
    | .ok t => respondAck .ackMoveQueueAdd g.fid s.cfg.stOk t
    | .error _ => respondAck .ackMoveQueueAdd g.fid s.cfg.stQueueFull s

/-- The MOVE_QUEUE_ADD handler (R181). -/
def handleMoveQueueAdd (f : List Byte) (s : State) : State :=
  withDecoded .moveQueueAdd f (fun r => addSegment (segmentOf r)) s

/-- The MOVE_QUEUE_STATUS handler (R182). -/
def handleMoveQueueStatus (f : List Byte) (s : State) : State :=
  withDecoded .moveQueueStatus f (fun r s => s.pushResp (encodeResp s.cfg .status (s.snapshot r.fid))) s

/-- The START_MOVE handler (R183). -/
def handleStartMove (f : List Byte) (s : State) : State :=
  withDecoded .startMove f (fun r s => respondAck .ackStartMove r.fid (startStatus s) (startMove s)) s

/-- The MOVE_END handler (R184). -/
def handleMoveEnd (f : List Byte) (s : State) : State :=
  withDecoded .moveEnd f (fun r s => moveEnd r.fid s.cfg.stStopped s) s

/-- The encoder records after a set-origin (R185). -/
def setOrigins (mask : Byte) (base : PerAxis U64) (s : State) : State :=
  s.forAxes fun i s =>
    if maskBit mask i then s.setEnc i { s.enc.get i with origin := (s.enc.get i).cum, base := base.get i } else s

/-- The SET_ORIGIN handler (R185). -/
def handleSetOrigin (f : List Byte) (s : State) : State :=
  withDecoded .setOrigin f
    (fun r s => respondAck .ackSetOrigin r.fid s.cfg.stOk (setOrigins (axisMaskOf r) (.of (baseOf r)) s)) s

/-- The ENCODER_STATUS handler (R186). -/
def handleEncoderStatus (f : List Byte) (s : State) : State :=
  withDecoded .encoderStatus f
    (fun r s => s.pushResp (encodeResp s.cfg .encStatus (recordOfEncStatus r.fid (.of fun i => (s.enc.get i).abs)))) s

/-- `ExtService(T, frame)` with the validated frame (R189 to R191). -/
def forward (t : ReqType) (f : List Byte) (s : State) : State :=
  withDecoded t f (fun _ s => s.emit (.extService t f)) s

/-- The LED_CONTROL handler (R189). -/
def handleLedControl (f : List Byte) (s : State) : State := forward .ledControl f s

/-- The HOME handler (R190). -/
def handleHome (f : List Byte) (s : State) : State := forward .home f s

/-- The PROBE_LEVEL handler (R191). -/
def handleProbeLevel (f : List Byte) (s : State) : State := forward .probeLevel f s

/-- `1 <= microsteps <= MICROSTEP_MAX` (R187). -/
def microstepsOk (m : U16) : Bool := decide (1 ≤ m.toNat) && decide (m.toNat ≤ microstepMax)

/-- The MICROSTEPS request on the decoded factor (R187). -/
def setMicrosteps (fid : Byte) (m : U16) (s : State) : State :=
  if microstepsOk m then respondAck .ackMicrosteps fid s.cfg.stOk (s.setCtl { s.ctl with microsteps := m })
  else respondAck .ackMicrosteps fid s.cfg.stBadArg s

/-- The MICROSTEPS handler (R187). -/
def handleMicrosteps (f : List Byte) (s : State) : State :=
  withDecoded .microsteps f (fun r => setMicrosteps r.fid (r.bits 16 .microsteps)) s

/-- Arming or disarming the friction model (R188). -/
def setFriction (enable : Byte) (s : State) : State :=
  if enable ≠ 0#8 then
    let s := (s.setCtl { s.ctl with frictionEn := true }).clearQueue
    if s.fsm = .queued then s.setFsm .idle else s
  else s.setCtl { s.ctl with frictionEn := false }

/-- The AUTO_FRICTION handler (R188). -/
def handleAutoFriction (f : List Byte) (s : State) : State :=
  withDecoded .autoFriction f
    (fun r s => respondAck .ackAutoFriction r.fid s.cfg.stOk (setFriction (r.bits 8 .enable) s)) s

/-- The handler registry: "every request type of 30_encoding.md rule R99 has a registered handler" (R173). -/
def handle (t : ReqType) (f : List Byte) (s : State) : State :=
  match t with
  | .moveQueueAdd => handleMoveQueueAdd f s
  | .moveQueueStatus => handleMoveQueueStatus f s
  | .startMove => handleStartMove f s
  | .moveEnd => handleMoveEnd f s
  | .setOrigin => handleSetOrigin f s
  | .encoderStatus => handleEncoderStatus f s
  | .ledControl => handleLedControl f s
  | .home => handleHome f s
  | .probeLevel => handleProbeLevel f s
  | .microsteps => handleMicrosteps f s
  | .autoFriction => handleAutoFriction f s

/-! ## The meanings of the request rows -/

/-- MOVE_QUEUE_ADD (R181). -/
def execReqMoveQueueAdd (f : List Byte) (s : State) : Host.Outcome State Fault Refusal :=
  .next ((handleMoveQueueAdd f s).ok .unit)
/-- MOVE_QUEUE_STATUS (R182). -/
def execReqMoveQueueStatus (f : List Byte) (s : State) : Host.Outcome State Fault Refusal :=
  .next ((handleMoveQueueStatus f s).ok .unit)
/-- START_MOVE (R183). -/
def execReqStartMove (f : List Byte) (s : State) : Host.Outcome State Fault Refusal :=
  .next ((handleStartMove f s).ok .unit)
/-- MOVE_END (R184). -/
def execReqMoveEnd (f : List Byte) (s : State) : Host.Outcome State Fault Refusal :=
  .next ((handleMoveEnd f s).ok .unit)
/-- SET_ORIGIN (R185). -/
def execReqSetOrigin (f : List Byte) (s : State) : Host.Outcome State Fault Refusal :=
  .next ((handleSetOrigin f s).ok .unit)
/-- ENCODER_STATUS (R186). -/
def execReqEncoderStatus (f : List Byte) (s : State) : Host.Outcome State Fault Refusal :=
  .next ((handleEncoderStatus f s).ok .unit)
/-- LED_CONTROL (R189). -/
def execReqLedControl (f : List Byte) (s : State) : Host.Outcome State Fault Refusal :=
  .next ((handleLedControl f s).ok .unit)
/-- HOME (R190). -/
def execReqHome (f : List Byte) (s : State) : Host.Outcome State Fault Refusal :=
  .next ((handleHome f s).ok .unit)
/-- PROBE_LEVEL (R191). -/
def execReqProbeLevel (f : List Byte) (s : State) : Host.Outcome State Fault Refusal :=
  .next ((handleProbeLevel f s).ok .unit)
/-- MICROSTEPS (R187). -/
def execReqMicrosteps (f : List Byte) (s : State) : Host.Outcome State Fault Refusal :=
  .next ((handleMicrosteps f s).ok .unit)
/-- AUTO_FRICTION (R188). -/
def execReqAutoFriction (f : List Byte) (s : State) : Host.Outcome State Fault Refusal :=
  .next ((handleAutoFriction f s).ok .unit)

end Sys2Proof.Machine
end

