-- ==== Sys2Proof/Machine/Router.lean ====
section
/-! DEFINITION. The frame router and the dispatcher: RX_BYTE and RX_TRANSFER (41_router_dispatch.md R170 to R174). -/

namespace Sys2Proof.Machine

/-- `dispatch(frame, n)` (R172): the handler of the type byte's request type, or the unhandled counter (R174). -/
def dispatch (frame : List Byte) (s : State) : State :=
  match requestType s.cfg (byteAt frame 1) with
  | some t => handle t frame s
  | none => s.countUnhandled

/-- The offset of the first tail byte at offset 3 or later of the `n` accumulated bytes (R170). -/
def tailOffset (tail : Byte) (buf : List Byte) (n : Nat) : Option Nat :=
  (List.range' 3 (n - 3)).find? fun k => byteAt buf k == tail

/-- The overflow check of R170: a full accumulator starts again and is counted. -/
def makeRoom (s : State) : State :=
  if s.rt.idx.toNat = s.cfg.routerCap then (s.setRt { s.rt with idx := 0#8 }).countOvf else s

/-- The append of R170. -/
def appendByte (b : Byte) (s : State) : State :=
  s.setRt ⟨s.rt.buf.set s.rt.idx.toNat b, s.rt.idx + 1#8⟩

/-- Discards the accumulation: "reset index". -/
def dropAccumulation (s : State) : State := s.setRt { s.rt with idx := 0#8 }

/-- The recognition of R170, after the append: discard without a header, dispatch on a tail, else keep accumulating. -/
def recognise (s : State) : State :=
  if byteAt s.rt.buf 0 ≠ s.cfg.hdrReq then dropAccumulation s
  else
    match tailOffset s.cfg.tailReq s.rt.buf s.rt.idx.toNat with
    | some k => dispatch (s.rt.buf.take (k + 1)) (dropAccumulation s)
    | none => s

/-- The router's byte rule (R170). -/
def routeByte (b : Byte) (s : State) : State := recognise (appendByte b (makeRoom s))

/-- RX_BYTE b (R170). -/
def execRxByte (b : Byte) (s : State) : Host.Outcome State Fault Refusal := .next ((routeByte b s).ok .unit)

/-- Each byte of a buffer in order to R170 (R171). -/
def routeBytes (bs : List Byte) (s : State) : State := bs.foldl (fun s b => routeByte b s) s

/-- The received SPI buffer of one transfer (R171). -/
def transfer (buf : List Byte) (s : State) : State :=
  if byteAt buf 0 = s.cfg.poll then s.countPoll else routeBytes buf s

/-- RX_TRANSFER RXBUF (R171). -/
def execRxTransfer (buf : List Byte) (s : State) : Host.Outcome State Fault Refusal :=
  .next ((transfer buf s).ok .unit)

end Sys2Proof.Machine
end

