-- ==== Sys2Proof/Machine/System.lean ====
section
/-! DEFINITION. NOP (30_encoding.md R93), RESET (70_reset_and_hazards.md R350) and the reserved words (R92). -/

namespace Sys2Proof.Machine

/-- NOP (R93). -/
def execNop (s : State) : Host.Outcome State Fault Refusal := .next (s.ok .unit)

/-! ## RESET -/

/-- A list of `n` values. -/
def tabulate {α : Type} (n : Nat) (f : Nat → α) : List α := (List.range n).map f

/-- A move-queue slot after a RESET: unspecified (R26, R350), so free. -/
def freeSegment (draw slot : Nat) : MoveSegment where
  steps := .of fun i => Config.freeQueueWord draw slot i.index
  vel := .of fun i => Config.freeQueueWord draw slot (3 + i.index)
  kp := .of fun i => (Config.freeQueueWord draw slot (6 + i.index)).setWidth 16
  ki := .of fun i => (Config.freeQueueWord draw slot (9 + i.index)).setWidth 16
  kd := .of fun i => (Config.freeQueueWord draw slot (12 + i.index)).setWidth 16
  dirMask := (Config.freeQueueWord draw slot 15).setWidth 8
  fid := (Config.freeQueueWord draw slot 16).setWidth 8

/-- A FIFO slot after a RESET: no frame is held and no rule gives it a content, so free. -/
def freeFifoSlot (draw slot : Nat) : FifoSlot :=
  ⟨Config.freeFifoLen draw slot, tabulate frameMax (Config.freeFifoByte draw slot)⟩

/-- The pending register after a RESET: not valid, its content free (R47). -/
def freePending (draw : Nat) : Pending :=
  ⟨false, Config.freePendingLen draw, tabulate frameMax (Config.freePendingByte draw)⟩

/-- The state RESET leaves (R350): every high step line is lowered and every enabled driver disabled with their events (as
R231); then every piece of state has its reset value, and what R350 leaves unspecified is free. The configuration is
unchanged; the environment's port and the output trace are not state of the block. -/
def resetState (s : State) : State :=
  let r := State.resetWith s.cfg
  { r with
    q := { r.q with slots := tabulate s.cfg.qcap (freeSegment s.free) }
    rf := { r.rf with slots := tabulate s.cfg.respFifoCap (freeFifoSlot s.free) }
    spi := ⟨freePending s.free, tabulate s.cfg.xferLen (Config.freeTxByte s.free)⟩
    port := s.port
    trace := (stopAllAxes s).trace
    free := s.free + 1 }

/-- RESET (R350). -/
def execReset (s : State) : Host.Outcome State Fault Refusal := .next ((resetState s).ok .unit)

/-! ## Reserved words -/

/-- OP 0xD: "spell no operation. The block performs nothing for them; a model refuses them" (R92). -/
def execReservedD (_rest : BitVec 12) (_s : State) : Host.Outcome State Fault Refusal := .refused .reservedOpD

/-- OP 0xE (R92). -/
def execReservedE (_rest : BitVec 12) (_s : State) : Host.Outcome State Fault Refusal := .refused .reservedOpE

end Sys2Proof.Machine
end

