-- ==== Sys2Proof/Machine/Dispatch.lean ====
section
/-! DEFINITION. `exec`: one arm per row of the opcode table, each a direct call of its meaning. -/

namespace Sys2Proof.Machine

def exec (i : Instr) (s : State) : Host.Outcome State Fault Refusal :=
  match i with
  -- command port (R91)
  | .nop => Sys2Proof.Machine.execNop s
  | .rxByte b => Sys2Proof.Machine.execRxByte b s
  | .rxTransfer buf => Sys2Proof.Machine.execRxTransfer buf s
  | .tickHf => Sys2Proof.Machine.execTickHf s
  | .tickLf raw => Sys2Proof.Machine.execTickLf raw s
  | .estop => Sys2Proof.Machine.execEstop s
  | .fifoPop c => Sys2Proof.Machine.execFifoPop c s
  | .loadPending => Sys2Proof.Machine.execLoadPending s
  | .prime st => Sys2Proof.Machine.execPrime st s
  | .statusSelect n => Sys2Proof.Machine.execStatusSelect n s
  | .fifoPushExt frame => Sys2Proof.Machine.execFifoPushExt frame s
  | .setSafe0 => Sys2Proof.Machine.execSetSafe0 s
  | .setSafe1 => Sys2Proof.Machine.execSetSafe1 s
  | .fifoCount => Sys2Proof.Machine.execFifoCount s
  | .reset => Sys2Proof.Machine.execReset s
  | .reservedD rest => Sys2Proof.Machine.execReservedD rest s
  | .reservedE rest => Sys2Proof.Machine.execReservedE rest s
  -- request messages (R181 to R191)
  | .reqMoveQueueAdd f => Sys2Proof.Machine.execReqMoveQueueAdd f s
  | .reqMoveQueueStatus f => Sys2Proof.Machine.execReqMoveQueueStatus f s
  | .reqStartMove f => Sys2Proof.Machine.execReqStartMove f s
  | .reqMoveEnd f => Sys2Proof.Machine.execReqMoveEnd f s
  | .reqSetOrigin f => Sys2Proof.Machine.execReqSetOrigin f s
  | .reqEncoderStatus f => Sys2Proof.Machine.execReqEncoderStatus f s
  | .reqLedControl f => Sys2Proof.Machine.execReqLedControl f s
  | .reqHome f => Sys2Proof.Machine.execReqHome f s
  | .reqProbeLevel f => Sys2Proof.Machine.execReqProbeLevel f s
  | .reqMicrosteps f => Sys2Proof.Machine.execReqMicrosteps f s
  | .reqAutoFriction f => Sys2Proof.Machine.execReqAutoFriction f s
  -- response messages (R156 to R159)
  | .respAckMoveQueueAdd f => Sys2Proof.Machine.execRespAckMoveQueueAdd f s
  | .respAckStartMove f => Sys2Proof.Machine.execRespAckStartMove f s
  | .respAckSetOrigin f => Sys2Proof.Machine.execRespAckSetOrigin f s
  | .respAckMicrosteps f => Sys2Proof.Machine.execRespAckMicrosteps f s
  | .respAckAutoFriction f => Sys2Proof.Machine.execRespAckAutoFriction f s
  | .respStatus f => Sys2Proof.Machine.execRespStatus f s
  | .respMoveEnd f => Sys2Proof.Machine.execRespMoveEnd f s
  | .respEncStatus f => Sys2Proof.Machine.execRespEncStatus f s

end Sys2Proof.Machine
end

