-- ==== Sys2Proof/Machine/Port.lean ====
section
/-! DEFINITION. The port as `step` uses it (30_encoding.md R90, 10_state.md R22): the next item. Then the checks before an
operation: the invariants the spec states, as a Boolean (60_exceptions.md R324, 20_memory.md R75). -/

namespace Sys2Proof.Machine

/-- The next item on the port. An idle cycle carries the word 0x0000, NOP: "so that an idle cycle of the port has an
encoding" (R93). -/
def State.nextItem (s : State) : PortItem := s.port.headD (.command (.ofWord 0x0000#16))

/-- The state with the item taken from the port. -/
def State.advance (s : State) : State := { s with port := s.port.tail }

/-- An engine state in which an operation can begin: Stopping is left within one operation, and a state with `fsm` Paused
or Error is outside the spec (R23, R324). -/
def Fsm.between : Fsm → Bool
  | .idle | .queued | .running | .done => true
  | .stopping | .paused | .error => false

/-- The lengths of the frames the response FIFO holds, oldest first (R46). -/
def heldLengths (c : Config) (rf : RespFifo) : List Nat :=
  (List.range rf.count.toNat).map fun j => (fifoSlot rf (fifoIndex c rf j)).len.toNat

/-- Every buffer has its declared length, and every index register and every length register that is read lies in its
buffer (R26, R45 to R48, R200): "FIFO and pending copies are bounded by FRAME_MAX" (R75), so no rule accesses a buffer out
of its bounds. -/
def State.shaped (s : State) : Bool :=
  [s.q.slots.length == s.cfg.qcap, decide (s.q.head.toNat < s.cfg.qcap), decide (s.q.tail.toNat < s.cfg.qcap),
    decide (s.q.count.toNat ≤ s.cfg.qcap), s.rt.buf.length == s.cfg.routerCap,
    decide (s.rt.idx.toNat ≤ s.cfg.routerCap), s.rf.slots.length == s.cfg.respFifoCap,
    s.rf.slots.all (fun t => t.data.length == frameMax), decide (s.rf.head.toNat < s.cfg.respFifoCap),
    decide (s.rf.count.toNat ≤ s.cfg.respFifoCap), (heldLengths s.cfg s.rf).all (fun n => decide (n ≤ frameMax)),
    s.spi.pending.data.length == frameMax, !s.spi.pending.valid || decide (s.spi.pending.len.toNat ≤ frameMax),
    s.spi.tx.length == s.cfg.xferLen].all id

/-! ## The invariants of 10_state.md, R200 and R239 -/

/-- The segments the move queue holds, oldest first (R26). -/
def queuedSegments (c : Config) (q : Queue) : List MoveSegment :=
  (List.range q.count.toNat).map fun k => queueSlot q ((q.head.toNat + k) % c.qcap)

/-- The tail and the queue sums (R26, R27). -/
def queueConsistent (c : Config) (q : Queue) : Bool :=
  [q.tail.toNat == (q.head.toNat + q.count.toNat) % c.qcap,
    Axis.all.all fun i => (q.qsum.get i).toNat == ((queuedSegments c q).map fun g => (g.steps.get i).toNat).sum].all id

/-- One axis (R29 to R34). -/
def axisConsistent (c : Config) (a : AxisState) : Bool :=
  [decide (a.emitted.toNat ≤ a.total.toNat), a.targetSteps == a.emitted, decide (a.phase.toNat < one),
    decide (a.incr.toNat ≤ one), decide (a.vTarget.toNat ≤ c.vMax), decide (a.vActual.toNat ≤ c.vMax),
    decide (a.accFrac.toNat < 65536), decide (-(c.iClamp : Int) ≤ a.integ.toInt), decide (a.integ.toInt ≤ c.iClamp)].all id

/-- The engine as a whole, and with one axis and its lines (R35, R36, R239). -/
def engineConsistent (s : State) : Bool :=
  [s.seg.active == (s.fsm == .running), s.fsm != .idle || s.q.count == 0#16,
    Axis.all.all fun i =>
      [s.seg.active || s.ax.get i == AxisState.zero,
        s.fsm == .running || (!(s.pin.get i).step && !(s.pin.get i).en),
        (s.ax.get i).highHold == 0#32 || (s.pin.get i).step].all id].all id

/-- The encoders and the microstep factor (R38, R40). -/
def controlConsistent (s : State) : Bool :=
  [Axis.all.all fun i => decide ((s.enc.get i).lastRaw.toNat < 2 ^ (s.cfg.encWidth.get i).bits),
    decide (1 ≤ s.ctl.microsteps.toNat), decide (s.ctl.microsteps.toNat ≤ microstepMax)].all id

/-- Every invariant the spec states of the state between operations holds: "every state the rules reach satisfies the
invariants of 10_state.md" (R324), with R200's frame lengths and R239 (log entry 20). -/
def State.consistent (s : State) : Bool :=
  [queueConsistent s.cfg s.q, Axis.all.all fun i => axisConsistent s.cfg (s.ax.get i), engineConsistent s,
    (heldLengths s.cfg s.rf).all (fun n => decide (1 ≤ n)), controlConsistent s].all id

end Sys2Proof.Machine
end

