-- ==== Sys2Proof/Machine/Step.lean ====
section
/-! DEFINITION. One step: the environment's next operation, atomic (00_scope.md R5, 20_memory.md R77). The spec's checks on
the configuration (R8), the engine state (R23, K1), the buffers (R75) and the invariants (R324, K2) come first. -/

namespace Sys2Proof.Machine

/-- One operation of the block. -/
def step (s : State) : Host.Outcome State Fault Refusal :=
  if s.cfg.wf = false then .refused .configInvalid
  else if s.fsm.between = false then .refused .engineOutsideSpec
  else if s.shaped = false then .fault .outOfBounds
  else if s.consistent = false then .fault .inconsistent
  else
    match decode s.cfg s.nextItem with
    | .error e => .refused (.illegalItem e)
    | .ok i => exec i s.advance

/-- `s` with a table word as the next item of the port (log entry 2). -/
def State.withFetchWord (s : State) (nbits w : Nat) : State := { s with port := tableItem s.cfg nbits w :: s.port }

end Sys2Proof.Machine
end

