-- ==== Sys2Proof/Safety.lean ====
section
/-! DEFINITION. What a good state is, in the terms claims use: the contents of the queues as lists, the invariants of
10_state.md R26 to R36, R38, R40, R45 to R47 and 43_motion_fsm.md R239, the answer of a push, the levels an event trace
leaves, and runs of several operations. -/

namespace Sys2Proof.Machine

/-! ## Contents -/

/-- The `j`-th oldest frame of the response FIFO. -/
def heldFrame (c : Config) (rf : RespFifo) (j : Nat) : List Byte :=
  let t := fifoSlot rf (fifoIndex c rf j)
  t.data.take t.len.toNat

/-- The frames a response FIFO holds, oldest first (R200). -/
def heldFrames (c : Config) (rf : RespFifo) : List (List Byte) := (List.range rf.count.toNat).map (heldFrame c rf)

/-- The frames the response FIFO holds, oldest first (R200). -/
def State.held (s : State) : List (List Byte) := heldFrames s.cfg s.rf

/-- The bytes the router has accumulated for the current candidate frame (R45). -/
def State.accumulated (s : State) : List Byte := s.rt.buf.take s.rt.idx.toNat

/-! ## Invariants -/

/-- The move queue (R26, R27). -/
structure QueueOk (c : Config) (q : Queue) : Prop where
  /-- The slots are `slot[0..QCAP-1]`. -/
  slots : q.slots.length = c.qcap
  /-- The head indexes a slot. -/
  head : q.head.toNat < c.qcap
  /-- "`count ∈ [0, capacity]`". -/
  count : q.count.toNat ≤ c.qcap
  /-- "`tail = (head + count) mod QCAP` always". -/
  tail : q.tail.toNat = (q.head.toNat + q.count.toNat) % c.qcap
  /-- R27, the queue-sum invariant. -/
  qsum : ∀ i, (q.qsum.get i).toNat = ((queuedSegments c q).map fun g => (g.steps.get i).toNat).sum

/-- One axis (R29 to R34). -/
structure AxisOk (c : Config) (a : AxisState) : Prop where
  /-- R29. -/
  emitted : a.emitted.toNat ≤ a.total.toNat
  /-- R30. -/
  target : a.targetSteps = a.emitted
  /-- R31. -/
  phase : a.phase.toNat < one
  /-- R31. -/
  incr : a.incr.toNat ≤ one
  /-- R32. -/
  vTarget : a.vTarget.toNat ≤ c.vMax
  /-- R32. -/
  vActual : a.vActual.toNat ≤ c.vMax
  /-- R33. -/
  accFrac : a.accFrac.toNat < 2 ^ 16
  /-- R34. -/
  integLo : -(c.iClamp : Int) ≤ a.integ.toInt
  /-- R34. -/
  integHi : a.integ.toInt ≤ c.iClamp

/-- The engine (R23, R35, R36, R239). -/
structure EngineOk (s : State) : Prop where
  /-- "`seg.active` is true exactly when `fsm = Running`" (R239). -/
  active : s.seg.active = true ↔ s.fsm = .running
  /-- Stopping is "never observed between operations" (R23); Paused and Error are entered by no rule (R251). -/
  between : s.fsm = .idle ∨ s.fsm = .queued ∨ s.fsm = .running ∨ s.fsm = .done
  /-- "`fsm = Idle` implies `q.count = 0`" (R239). -/
  idle : s.fsm = .idle → s.q.count = 0#16
  /-- Every AxisState field is 0 while no segment is active (R36). -/
  rest : s.seg.active = false → ∀ i, s.ax.get i = AxisState.zero
  /-- "`fsm ∈ {Idle, Queued, Done}` implies no driver is enabled and no step line is high" (R239). -/
  lines : s.fsm ≠ .running → ∀ i, (s.pin.get i).step = false ∧ (s.pin.get i).en = false
  /-- "`high_hold > 0` implies the axis's step line is high" (R35). -/
  pulse : ∀ i, (s.ax.get i).highHold ≠ 0#32 → (s.pin.get i).step = true

/-- The response FIFO (R46, R200). -/
structure FifoOk (c : Config) (rf : RespFifo) : Prop where
  /-- The slots are `slot[0..RESP_FIFO_CAP-1]`. -/
  slots : rf.slots.length = c.respFifoCap
  /-- Each slot has FRAME_MAX bytes. -/
  data : ∀ t ∈ rf.slots, t.data.length = frameMax
  /-- The head indexes a slot. -/
  head : rf.head.toNat < c.respFifoCap
  /-- "The FIFO holds at most RESP_FIFO_CAP frames". -/
  count : rf.count.toNat ≤ c.respFifoCap
  /-- "each 1 to FRAME_MAX bytes". -/
  lens : ∀ j < rf.count.toNat, 1 ≤ (fifoSlot rf (fifoIndex c rf j)).len.toNat ∧
    (fifoSlot rf (fifoIndex c rf j)).len.toNat ≤ frameMax

/-- The router (R45): between operations the accumulation starts with a header and holds no complete frame (R170). -/
structure RouterOk (c : Config) (r : Router) : Prop where
  /-- The buffer is `buf[0..ROUTER_CAP-1]`. -/
  buf : r.buf.length = c.routerCap
  /-- "in `0..ROUTER_CAP`". -/
  idx : r.idx.toNat ≤ c.routerCap
  /-- A candidate starts with HDR_REQ. -/
  header : r.idx ≠ 0#8 → byteAt r.buf 0 = c.hdrReq
  /-- No tail at offset 3 or later. -/
  tail : ∀ k, 3 ≤ k → k < r.idx.toNat → byteAt r.buf k ≠ c.tailReq

/-- The SPI registers (R47, R48). -/
structure SpiOk (c : Config) (p : Spi) : Prop where
  /-- The pending register has FRAME_MAX bytes. -/
  data : p.pending.data.length = frameMax
  /-- A valid pending response has 1 to FRAME_MAX bytes (R206 pops it from the FIFO). -/
  len : p.pending.valid = true → 1 ≤ p.pending.len.toNat ∧ p.pending.len.toNat ≤ frameMax
  /-- The transmit buffer has XFER_LEN bytes. -/
  tx : p.tx.length = c.xferLen

/-- The encoder and control registers (R38, R40). -/
structure ControlOk (s : State) : Prop where
  /-- "`last_raw` holds a value below `2^ENC_WIDTH[i]`" (R38). -/
  lastRaw : ∀ i, (s.enc.get i).lastRaw.toNat < 2 ^ (s.cfg.encWidth.get i).bits
  /-- "in `1..MICROSTEP_MAX`" (R40). -/
  microsteps : 1 ≤ s.ctl.microsteps.toNat ∧ s.ctl.microsteps.toNat ≤ microstepMax

/-- A sound state: every invariant the spec states of the state between operations (R324), and every buffer within its
bounds (R75). A step runs in no other (K2). -/
structure State.Sound (s : State) : Prop where
  queue : QueueOk s.cfg s.q
  axes : ∀ i, AxisOk s.cfg (s.ax.get i)
  engine : EngineOk s
  fifo : FifoOk s.cfg s.rf
  control : ControlOk s
  /-- The router's buffer and index (R45). -/
  router : s.rt.buf.length = s.cfg.routerCap ∧ s.rt.idx.toNat ≤ s.cfg.routerCap
  /-- The pending register (R47): FRAME_MAX bytes, and a valid response lies in them (R75). -/
  pending : s.spi.pending.data.length = frameMax ∧ (s.spi.pending.valid = true → s.spi.pending.len.toNat ≤ frameMax)
  /-- The transmit buffer (R48). -/
  tx : s.spi.tx.length = s.cfg.xferLen

/-- A good state: a configuration the model accepts, every invariant the spec states, and what the router and the pending
register keep besides (RouterOk, SpiOk). -/
structure State.Good (s : State) : Prop where
  cfg : s.cfg.wf = true
  queue : QueueOk s.cfg s.q
  axes : ∀ i, AxisOk s.cfg (s.ax.get i)
  engine : EngineOk s
  fifo : FifoOk s.cfg s.rf
  router : RouterOk s.cfg s.rt
  spi : SpiOk s.cfg s.spi
  control : ControlOk s

/-! ## Responses -/

/-- `r'` is the response FIFO `r` after a push of `f` that succeeds (R201): the frame is the newest held, and only the bytes
and the length of its slot and the count are written. -/
structure FramePushed (c : Config) (f : List Byte) (r r' : RespFifo) : Prop where
  held : heldFrames c r' = heldFrames c r ++ [f]
  head : r'.head = r.head
  count : r'.count.toNat = r.count.toNat + 1
  others : ∀ k, k ≠ fifoIndex c r r.count.toNat → fifoSlot r' k = fifoSlot r k
  rest : ∀ b, f.length ≤ b →
    byteAt (fifoSlot r' (fifoIndex c r r.count.toNat)).data b = byteAt (fifoSlot r (fifoIndex c r r.count.toNat)).data b

/-- `r'` is `r` after a pop of its oldest frame (R203): the head and the count alone are written. -/
structure FramePopped (c : Config) (r r' : RespFifo) : Prop where
  held : heldFrames c r' = (heldFrames c r).tail
  head : r'.head.toNat = (r.head.toNat + 1) % c.respFifoCap
  count : r'.count.toNat + 1 = r.count.toNat
  slots : r'.slots = r.slots

/-- `t` is `s` after `push_resp(f)`: the frame is the newest of the FIFO, or, the FIFO full, it is lost and counted (R201,
R202). -/
def Responded (f : List Byte) (s t : State) : Prop :=
  if s.rf.count.toNat = s.cfg.respFifoCap then
    t.rf = s.rf ∧ t.cnt = { s.cnt with respDrop := s.cnt.respDrop + 1#32 }
  else FramePushed s.cfg f s.rf t.rf ∧ t.cnt = s.cnt

/-- `s` and `t` agree on everything but the response FIFO, the counters and the result. -/
def SameButResponse (s t : State) : Prop := { t with rf := s.rf, cnt := s.cnt, result := s.result } = s

/-! ## The move queue (R220, R221) -/

/-- `q'` is `q` after the segment `g` is stored at the tail (R220). -/
structure Enqueued (c : Config) (g : MoveSegment) (q q' : Queue) : Prop where
  segments : queuedSegments c q' = queuedSegments c q ++ [g]
  head : q'.head = q.head
  tail : q'.tail.toNat = (q.tail.toNat + 1) % c.qcap
  count : q'.count.toNat = q.count.toNat + 1
  qsum : ∀ i, (q'.qsum.get i).toNat = (q.qsum.get i).toNat + (g.steps.get i).toNat
  stored : queueSlot q' q.tail.toNat = g
  others : ∀ k, k ≠ q.tail.toNat → queueSlot q' k = queueSlot q k

/-- `q'` is `q` after its oldest segment `g` is taken (R221). -/
structure Dequeued (c : Config) (g : MoveSegment) (q q' : Queue) : Prop where
  segments : queuedSegments c q = g :: queuedSegments c q'
  head : q'.head.toNat = (q.head.toNat + 1) % c.qcap
  tail : q'.tail = q.tail
  count : q'.count.toNat + 1 = q.count.toNat
  qsum : ∀ i, (q'.qsum.get i).toNat + (g.steps.get i).toNat = (q.qsum.get i).toNat
  slots : q'.slots = q.slots

/-! ## Stop and begin (R231, R230) -/

/-- The axes of `t` are those of `s` stopped (R231): the step line lowered if high, the driver disabled if enabled, with
their events, in axis order; every AxisState field 0; the direction lines and `seg.fid`, `seg.dir_mask` as they were. -/
structure AxesStopped (s t : State) : Prop where
  seg : t.seg = { s.seg with active := false }
  axes : ∀ i, t.ax.get i = AxisState.zero
  pins : ∀ i, t.pin.get i = { s.pin.get i with step := false, en := false }
  events : t.trace = s.trace ++ Axis.all.flatMap fun i =>
    (if (s.pin.get i).step then [Event.stepLow i] else []) ++ (if (s.pin.get i).en then [Event.drvDisable i] else [])

/-- `t` is `s` after `move_end(fid, status)` (R236): every axis and the queue are stopped and cleared as R231 and R222 say,
the notification is pushed, the engine is Idle, and nothing else changes. -/
structure Stopped (fid status : Byte) (s t : State) : Prop where
  fsm : t.fsm = .idle
  queue : t.q = { s.q with head := 0#16, tail := 0#16, count := 0#16, qsum := .same 0#64 }
  axes : AxesStopped s t
  response : Responded (encodeResp s.cfg .moveEnd ⟨fid, [(.status, (status.toNat : Int))]⟩) s t
  frame : { t with
    fsm := s.fsm, seg := s.seg, q := s.q, ax := s.ax, pin := s.pin, trace := s.trace, rf := s.rf, cnt := s.cnt,
    result := s.result } = s

/-- `a'` and `p'` are axis `i` and its pins after the begin of segment `g` (R230) from `a` and `p`; `cum` is the encoder's
count, `friction` is `ctl.friction_en`. -/
structure BegunAxis (c : Config) (friction chained : Bool) (g : MoveSegment) (i : Axis) (cum : U64)
    (a a' : AxisState) (p p' : Pin) : Prop where
  total : a'.total = g.steps.get i
  emitted : a'.emitted = 0#32
  target : a'.targetSteps = 0#32
  command : a'.vCmd = g.vel.get i
  gains : a'.kp = g.kp.get i ∧ a'.ki = g.ki.get i ∧ a'.kd = g.kd.get i
  phase : a'.phase = 0#32
  pid : a'.integ = 0#32 ∧ a'.ePrev = 0#32 ∧ a'.dFilt = 0#32 ∧ a'.err = 0#32
  start : a'.encSegStart = cum
  vTarget : a'.vTarget.toNat = min (g.vel.get i).toNat c.vMax
  /-- "preserves the previous actual velocity across chained segments"; with no ramp the velocity is the target. -/
  vActual : a'.vActual =
    if c.accel = 0 ∧ g.steps.get i ≠ 0#32 then a'.vTarget
    else if chained = true ∧ g.steps.get i ≠ 0#32 then a.vActual else 0#32
  accFrac : a'.accFrac = if chained = true ∧ g.steps.get i ≠ 0#32 then a.accFrac else 0#32
  braking : a'.braking = if chained = true ∧ g.steps.get i ≠ 0#32 then a.braking else false
  incr : a'.incr.toNat =
    if g.steps.get i = 0#32 then 0 else velToIncr c (outVel c friction a'.vActual.toNat)
  holds : a'.highHold = a.highHold ∧ a'.lowHold = a.lowHold
  dirSettle : a'.dirSettle.toNat = if maskBit g.dirMask i = p.dir then a.dirSettle.toNat else c.dirSettle
  enSettle : a'.enSettle.toNat =
    if g.steps.get i ≠ 0#32 ∧ p.en = false then c.enSettle else a.enSettle.toNat
  pins : p' = ⟨p.step, maskBit g.dirMask i, decide (g.steps.get i ≠ 0#32)⟩

/-- `t` is `u` after segment `g` is dequeued and begun (R221, R230), but for `fsm`: the events are those of the axes in
order, `SetDir` for every axis. -/
structure Begun (chained : Bool) (g : MoveSegment) (u t : State) : Prop where
  queue : Dequeued u.cfg g u.q t.q
  seg : t.seg = ⟨true, g.fid, g.dirMask⟩
  axes : ∀ i, BegunAxis u.cfg u.ctl.frictionEn chained g i (u.enc.get i).cum (u.ax.get i) (t.ax.get i) (u.pin.get i)
    (t.pin.get i)
  events : t.trace = u.trace ++ Axis.all.flatMap fun i =>
    Event.setDir i (maskBit g.dirMask i) ::
      ((if g.steps.get i ≠ 0#32 ∧ (u.pin.get i).en = false then [Event.drvEnable i] else []) ++
        (if g.steps.get i = 0#32 ∧ (u.pin.get i).en = true then [Event.drvDisable i] else []))

/-! ## Reset (R350) -/

/-- Every piece of state R350 gives a value has it, and every buffer its length. -/
structure ResetValues (t : State) : Prop where
  result : t.result = .ok .unit
  fsm : t.fsm = .idle
  seg : t.seg = ⟨false, 0#8, 0#8⟩
  queue : t.q.head = 0#16 ∧ t.q.tail = 0#16 ∧ t.q.count = 0#16 ∧ ∀ i, t.q.qsum.get i = 0#64
  axes : ∀ i, t.ax.get i = AxisState.zero
  pins : ∀ i, t.pin.get i = ⟨false, false, false⟩
  encoders : ∀ i, t.enc.get i = ⟨0#64, 0#32, 0#64, 0#64⟩
  microsteps : t.ctl.microsteps.toNat = t.cfg.microstepReset
  control : t.ctl.frictionEn = false ∧ t.ctl.safe = true ∧ t.ctl.master = none
  router : t.rt.idx = 0#8 ∧ ∀ b ∈ t.rt.buf, b = 0x00#8
  fifo : t.rf.head = 0#8 ∧ t.rf.count = 0#8
  pending : t.spi.pending.valid = false
  counters : t.cnt = ⟨0#32, 0#32, 0#32, 0#32, 0#32⟩
  shaped : t.shaped = true

/-! ## The HF tick (R261 to R263) -/

/-- `b` and `p'` are an axis and its pins after phase 1 (R261) from `a` and `p`. -/
structure HoldsClosed (c : Config) (a b : AxisState) (p p' : Pin) : Prop where
  high : b.highHold.toNat = a.highHold.toNat - 1
  low : b.lowHold.toNat =
    if a.highHold.toNat = 0 then a.lowHold.toNat - 1
    else if a.highHold.toNat = 1 then c.pulseLow else a.lowHold.toNat
  enSettle : b.enSettle.toNat = a.enSettle.toNat - 1
  dirSettle : b.dirSettle.toNat = a.dirSettle.toNat - 1
  others : { b with highHold := a.highHold, lowHold := a.lowHold, enSettle := a.enSettle, dirSettle := a.dirSettle } = a
  pin : p' = { p with step := if a.highHold.toNat = 1 then false else p.step }

/-- Eligibility (R262). -/
def Unblocked (a : AxisState) : Prop :=
  0 < a.total.toNat ∧ a.emitted.toNat < a.total.toNat ∧ a.highHold.toNat = 0 ∧ a.lowHold.toNat = 0 ∧
    a.enSettle.toNat = 0 ∧ a.dirSettle.toNat = 0

/-- The axis steps in phase 2: it is eligible and its phase reaches unity (R263). -/
def Steps (a : AxisState) : Prop := Unblocked a ∧ one ≤ a.phase.toNat + a.incr.toNat

/-- `d` and `p'` are an axis and its pins after phase 2 (R262, R263) from `b` and `p`. -/
structure PhaseAdvanced (c : Config) (b d : AxisState) (p p' : Pin) : Prop where
  step : Steps b →
    d.phase.toNat = b.phase.toNat + b.incr.toNat - one ∧ d.highHold.toNat = c.pulseHigh ∧
      d.emitted.toNat = b.emitted.toNat + 1 ∧ d.targetSteps = b.targetSteps + 1#32 ∧
      { d with phase := b.phase, highHold := b.highHold, emitted := b.emitted, targetSteps := b.targetSteps } = b ∧
      p' = { p with step := true }
  noStep : Unblocked b → b.phase.toNat + b.incr.toNat < one →
    d.phase.toNat = b.phase.toNat + b.incr.toNat ∧ { d with phase := b.phase } = b ∧ p' = p
  blocked : ¬ Unblocked b → d = b ∧ p' = p

/-- The StepLow events of phase 1, in axis order. -/
def fallEvents (ax : PerAxis AxisState) : List Event :=
  Axis.all.flatMap fun i => if (ax.get i).highHold.toNat = 1 then [.stepLow i] else []

/-- `es` are the StepHigh events of phase 2, in axis order. -/
def RiseEvents (ax : PerAxis AxisState) (es : List Event) : Prop :=
  ∃ ex ey ez, es = ex ++ ey ++ ez ∧
    (Steps ax.x → ex = [.stepHigh .x]) ∧ (¬ Steps ax.x → ex = []) ∧
    (Steps ax.y → ey = [.stepHigh .y]) ∧ (¬ Steps ax.y → ey = []) ∧
    (Steps ax.z → ez = [.stepHigh .z]) ∧ (¬ Steps ax.z → ez = [])

/-- `u` is `s` after phases 1 and 2 of an HF tick in Running. -/
def HfPhases (s u : State) : Prop :=
  ∃ (b : PerAxis AxisState) (p : PerAxis Pin) (es : List Event),
    (∀ i, HoldsClosed s.cfg (s.ax.get i) (b.get i) (s.pin.get i) (p.get i)) ∧
    (∀ i, PhaseAdvanced s.cfg (b.get i) (u.ax.get i) (p.get i) (u.pin.get i)) ∧
    RiseEvents b es ∧ u.trace = s.trace ++ fallEvents s.ax ++ es ∧
    { u with ax := s.ax, pin := s.pin, trace := s.trace } = s

/-! ## The LF tick (R281, R285 to R290) -/

/-- `e'` is an encoder record after the sample `raw` (R281): the delta is the shortest signed distance mod `2^W`. -/
structure Sampled (w : EncWidth) (raw : U32) (e e' : Enc) : Prop where
  cum : e'.cum = BitVec.ofInt 64
    (e.cum.toInt + ((raw.toNat % 2 ^ w.bits : Nat) - (e.lastRaw.toNat : Int)).bmod (2 ^ w.bits))
  lastRaw : e'.lastRaw.toNat = raw.toNat % 2 ^ w.bits
  others : { e' with cum := e.cum, lastRaw := e.lastRaw } = e

/-- The error of R285 with the counts `cum` of this tick. -/
def errorRule (c : Config) (microsteps : U16) (i : Axis) (dir : Bool) (cum : U64) (a : AxisState) : Int :=
  if a.total.toNat = 0 ∨ c.closedLoop.get i = false then 0
  else
    let moved := (if dir then 1 else -1) * (cum.toInt - a.encSegStart.toInt)
    let meas := (moved * c.fullStepsPerRev * microsteps.toNat).tdiv (c.encCpr.get i)
    min (max (a.targetSteps.toNat - meas) (-2147483648)) 2147483647

/-- `R_i` of R286 and R290. -/
def workLeft (s : State) (i : Axis) : Int :=
  (s.ax.get i).total.toNat - (s.ax.get i).emitted.toNat + (s.q.qsum.get i).toNat

/-- A candidate of R286: the axis has outstanding work in the segment. -/
def Outstanding (a : AxisState) : Prop := 0 < a.total.toNat ∧ a.emitted.toNat < a.total.toNat

/-- Axis `k` has the least progress of the candidates, the lowest index among equals (R286). -/
def LeastProgress (s : State) (k : Axis) : Prop :=
  Outstanding (s.ax.get k) ∧ ∀ j, Outstanding (s.ax.get j) →
    (s.ax.get k).emitted.toNat * (s.ax.get j).total.toNat ≤ (s.ax.get j).emitted.toNat * (s.ax.get k).total.toNat ∧
    (j.index < k.index →
      (s.ax.get k).emitted.toNat * (s.ax.get j).total.toNat < (s.ax.get j).emitted.toNat * (s.ax.get k).total.toNat)

/-- Axis `k` has the most work left, the lowest index among equals, and some (R286). -/
def MostWork (s : State) (k : Axis) : Prop :=
  0 < workLeft s k ∧ ∀ j, workLeft s j ≤ workLeft s k ∧ (j.index < k.index → workLeft s j < workLeft s k)

/-- R289, the deadbanded error; `e` is the error of this tick. -/
def pidE1 (c : Config) (e : Int) : Int := if (e.natAbs : Int) ≤ c.deadband then 0 else e

/-- R289, the new `d_filt`. -/
def pidD (c : Config) (a : AxisState) (e : Int) : Int :=
  min (max (a.dFilt.toInt + (pidE1 c e - a.ePrev.toInt - a.dFilt.toInt) / 2 ^ c.derivFiltShift) (-2147483648)) 2147483647

/-- R289, `u_raw`. -/
def pidU (c : Config) (a : AxisState) (e : Int) : Int :=
  (a.kp.toNat * pidE1 c e + a.ki.toNat * a.integ.toInt + a.kd.toNat * pidD c a e) / 2 ^ c.pidShift

/-- R289, `u`. -/
def pidClamped (c : Config) (a : AxisState) (e : Int) : Int := min (max (pidU c a e) (-c.pidOutMax)) c.pidOutMax

/-- R287, the target velocity, throttled on an axis that is not the master when there is one. -/
def throttleRule (c : Config) (throttled : Prop) [Decidable throttled] (tv : Nat) (e : Int) : Int :=
  if throttled then
    ((tv * (65536 - ((65536 - c.thrMinFrac) * min e.natAbs c.thrErrTh) / c.thrErrTh) / 65536 : Nat) : Int)
  else tv

/-- R288, the control velocity of the tick on axis `i` with master `m`. -/
def controlRule (c : Config) (m : Option Axis) (i : Axis) (a : AxisState) (e : Int) : Int :=
  min (max (throttleRule c (m ≠ none ∧ m ≠ some i) a.vTarget.toNat e + pidClamped c a e) 0) (c.fHf / (c.pulseHigh + c.pulseLow) : Nat)

/-- R290, the braking decision on axis `i` with master `m`, with `ACCEL > 0`. -/
def MustBrake (s : State) (m : Option Axis) (i : Axis) : Prop :=
  workLeft s (m.getD i) ≤
    (((s.ax.get (m.getD i)).vActual.toNat * (s.ax.get (m.getD i)).vActual.toNat / (2 * s.cfg.accel) : Nat) : Int)

/-! ## Records in range (R142) -/

/-- A value "fits its field width and, for a masked field, has no bit outside the mask". -/
def FieldFits (d : Field) (v : Int) : Prop :=
  (if d.signed then -(2 ^ (8 * d.w - 1) : Nat) ≤ v ∧ v < (2 ^ (8 * d.w - 1) : Nat)
    else 0 ≤ v ∧ v < (2 ^ (8 * d.w) : Nat)) ∧
  (d.w = 1 → BitVec.ofInt 8 v &&& d.mask = BitVec.ofInt 8 v)

/-- A record of a layout: its fields are the layout's, each value in range. -/
def RecordFits (l : Layout) (r : Record) : Prop :=
  r.vals.map (·.1) = l.fields.map (·.name) ∧ ∀ d ∈ l.fields, FieldFits d (r.get d.name)

/-- `f` with bit `b` of byte `j` flipped. -/
def flipBit (f : List Byte) (j b : Nat) : List Byte := f.set j (byteAt f j ^^^ (1#8 <<< b))

/-- The bits R134 counts as covered by a discipline: those of bytes `lo..hi` but the left-out bit, and the parity itself. -/
def coveredBit (par : Parity) (j b : Nat) : Prop :=
  match par with
  | .none => False
  | .stub _ => False
  | .byteXor p lo hi => (lo ≤ j ∧ j ≤ hi) ∨ j = p
  | .bitXor p k lo hi => (lo ≤ j ∧ j ≤ hi ∧ ¬(j = p ∧ b = k)) ∨ (j = p ∧ b = k)

/-! ## Command words (R92) -/

/-- The words that "spell no operation" (R92). -/
def illegalWord (w : BitVec 16) : Prop :=
  opOf w = 0xD#4 ∨ opOf w = 0xE#4 ∨ argOf w ≠ 0#4 ∨
    (dataOf w ≠ 0#8 ∧ opOf w ∈ [0x0#4, 0x2#4, 0x3#4, 0x4#4, 0x5#4, 0x7#4, 0xA#4, 0xC#4, 0xF#4]) ∨
    (opOf w = 0xB#4 ∧ dataOf w ≠ 0#8 ∧ dataOf w ≠ 1#8)

/-- Whether an instruction can run the handler of request type `t`: the request itself, or a router operation. -/
def mayRequest (t : ReqType) : Instr → Prop
  | .rxByte _ => True
  | .rxTransfer _ => True
  | i => ∃ f, i = Instr.ofRequest t f

/-- Whether an instruction can run the handler of one of these request types. -/
def mayRequestAny (ts : List ReqType) (i : Instr) : Prop := ∃ t ∈ ts, mayRequest t i

/-- Whether an instruction can push a response of the block (R181 to R188, R236, R267): a request that is answered, a
response row, an HF tick that completes a move, an emergency stop. -/
def mayRespond (i : Instr) : Prop :=
  mayRequestAny [.moveQueueAdd, .moveQueueStatus, .startMove, .moveEnd, .setOrigin, .encoderStatus, .microsteps,
    .autoFriction] i ∨ (∃ r f, i = Instr.ofResponse r f) ∨ i = .tickHf ∨ i = .estop

/-! ## Pins and events -/

/-- The pins after an event (R37: each change of a pin is emitted as an event). -/
def Event.apply (e : Event) (p : PerAxis Pin) : PerAxis Pin :=
  match e with
  | .setDir i d => p.set i { p.get i with dir := d }
  | .drvEnable i => p.set i { p.get i with en := true }
  | .drvDisable i => p.set i { p.get i with en := false }
  | .stepHigh i => p.set i { p.get i with step := true }
  | .stepLow i => p.set i { p.get i with step := false }
  | .extService _ _ => p

/-- The pins after a list of events. -/
def replay (es : List Event) (p : PerAxis Pin) : PerAxis Pin := es.foldl (fun p e => e.apply p) p

/-! ## Runs -/

/-- Runs instructions in order: the final state and the results, or none where one does not answer a next state. -/
def execAll : List Instr → State → Option (State × List OpResult)
  | [], s => some (s, [])
  | i :: is, s =>
    match exec i s with
    | .next t => (execAll is t).map fun p => (p.1, t.result :: p.2)
    | .fault _ => none
    | .refused _ => none

/-- `n` HF ticks. -/
def ticksHf : Nat → State → State
  | 0, s => s
  | n + 1, s => ticksHf n ((tickHf s).ok .unit)

end Sys2Proof.Machine
end

