-- ==== Sys2Proof/Certificates/Slice0/Obligations.lean ====
section
/-! DEFINITION. The statements for the provers. Each holds for every configuration the model accepts; none is about a
program. A frame is an equation of records: `{ t with f := s.f } = s` says that nothing but the named fields differs. -/

open Sys2Proof Sys2Proof.Machine

/-! ## The port and the decoder -/

/-- A step is `exec` of the decoded item, on the state with the item taken from the port; an empty port carries the NOP
word (R93). The premises are the spec's: an accepted configuration (R8) and the invariants of the state (R75, R324). -/
def Obligations.StepRunsDecoded : Prop :=
  ∀ (s : State) (i : Instr), s.cfg.wf = true → s.Sound →
    decode s.cfg s.nextItem = .ok i →
    step s = exec i s.advance ∧
    (∀ p rest, s.port = p :: rest → s.nextItem = p ∧ s.advance = { s with port := rest }) ∧
    (s.port = [] → i = .nop ∧ s.advance = s)

/-- A few words written out from R91 and the examples of R145 to R159, in the test configuration. -/
def Obligations.SpecWordsDecode : Prop :=
  decodeTableWord 16 0x0000 = some .nop ∧
  decodeTableWord 16 0x1013 = some (.rxByte 0x13#8) ∧
  decodeTableWord 16 0x3000 = some .tickHf ∧
  decodeTableWord 16 0x5000 = some .estop ∧
  decodeTableWord 16 0x602A = some (.fifoPop 42#8) ∧
  decodeTableWord 16 0x80B1 = some (.prime 0xB1#8) ∧
  decodeTableWord 16 0xB001 = some .setSafe1 ∧
  decodeTableWord 16 0xF000 = some .reset ∧
  decodeTableWord 16 0xD123 = some (.reservedD 0x123#12) ∧
  decode .tc (.message [0xAA#8, 0x03#8, 0x22#8, 0x21#8, 0x55#8]) =
    .ok (.reqStartMove [0xAA#8, 0x03#8, 0x22#8, 0x21#8, 0x55#8]) ∧
  decode .tc (.message [0xAB#8, 0x04#8, 0x11#8, 0x00#8, 0x15#8, 0x54#8]) =
    .ok (.respMoveEnd [0xAB#8, 0x04#8, 0x11#8, 0x00#8, 0x15#8, 0x54#8])

/-- Decode and encode agree on every well-formed instruction, with every operand the port can carry. -/
def Obligations.DecodeEncodeAgree : Prop :=
  ∀ (c : Config) (i : Instr), c.wf = true → i.wf c = true → decode c (encode i) = .ok i

/-- The other direction: what decodes is well formed, and its encoding is the same word or the same message (the buses an
operation does not read aside), so no instruction has two spellings. -/
def Obligations.EncodeOfDecoded : Prop :=
  ∀ (c : Config) (p : PortItem) (i : Instr), c.wf = true → decode c p = .ok i →
    i.wf c = true ∧ (∀ f, p = .message f → encode i = .message f) ∧
    ∀ w, p = .command w → ∃ v, encode i = .command v ∧ v.word = w.word

/-- R92 at the level of a step: with buses of their declared lengths, a word that spells no operation is refused, and
every other word is an operation that runs. -/
def Obligations.IllegalWordsRefused : Prop :=
  ∀ (s : State) (p : PortWord) (rest : List PortItem), s.cfg.wf = true → s.Sound →
    s.port = .command p :: rest → p.rxbuf.length = s.cfg.xferLen → p.frame.length ≤ 255 →
    (illegalWord p.word → ∃ r, step s = .refused r) ∧ (¬ illegalWord p.word → ∃ t, step s = .next t)

/-- The two reserved rows stop, with a name each, whatever their other bits (R92). -/
def Obligations.ReservedRowsStop : Prop :=
  ∀ (rest : BitVec 12) (s : State),
    exec (.reservedD rest) s = .refused .reservedOpD ∧ exec (.reservedE rest) s = .refused .reservedOpE

/-! ## The codec -/

/-- R142 for every layout the configuration can hold. -/
def Obligations.CodecRoundTrip : Prop :=
  ∀ c : Config, c.wf = true →
    (∀ t r, RecordFits (c.reqLayout.get t) r → decodeReq c t (encodeReq c t r) = .ok r) ∧
    (∀ t r, RecordFits (c.respLayout t) r → decodeResp c t (encodeResp c t r) = .ok r)

/-- R133: what each discipline writes, that it is the last write of an encoder, and that the check is true after it. -/
def Obligations.WriteParityRule : Prop :=
  (∀ (L : Nat) (fs : List Field) (par : Parity) (f : List Byte), par.wf L fs = true → f.length = L →
    checkParity par (writeParity par f) = true ∧
    (par = .none → writeParity par f = f) ∧
    (∀ p, par = .stub p → writeParity par f = f.set p 0x00#8) ∧
    (∀ p lo hi, par = .byteXor p lo hi → writeParity par f = f.set p (byteXor f lo hi)) ∧
    (∀ p k lo hi, par = .bitXor p k lo hi →
      (∀ j, j ≠ p → byteAt (writeParity par f) j = byteAt f j) ∧
      (byteAt (writeParity par f) p).getLsbD k = bitXor f p k lo hi ∧
      ∀ b, b ≠ k → (byteAt (writeParity par f) p).getLsbD b = (byteAt f p).getLsbD b)) ∧
  ∀ (lay : Layout) (h code tail : Byte) (r : Record), lay.wf = true →
    writeParity lay.parity (encodeFrame lay h code tail r) = encodeFrame lay h code tail r

/-- R134: one flipped covered bit turns a true check false; NONE and STUB cover no bit. -/
def Obligations.ParityCatchesOneBit : Prop :=
  ∀ (L : Nat) (fs : List Field) (par : Parity) (f : List Byte) (j b : Nat), par.wf L fs = true → f.length = L →
    j < L → b < 8 → checkParity par f = true →
    (coveredBit par j b → checkParity par (flipBit f j b) = false) ∧
    (par = .none ∨ (∃ p, par = .stub p) → checkParity par (flipBit f j b) = true)

/-- R12: the two buffer primitives are big-endian, a written field reads back, and a write leaves every other byte. -/
def Obligations.BigEndianBuffers : Prop :=
  ∀ (f : List Byte) (off n v : Nat),
    memRead f off n = ((List.range n).map fun k => (byteAt f (off + k)).toNat * 2 ^ (8 * (n - 1 - k))).sum ∧
    (off + n ≤ f.length →
      memRead (memWrite f off n v) off n = v % 2 ^ (8 * n) ∧
      (∀ k, k < n → (byteAt (memWrite f off n v) (off + k)).toNat = v / 2 ^ (8 * (n - 1 - k)) % 256) ∧
      (memWrite f off n v).length = f.length ∧
      ∀ k, k < off ∨ off + n ≤ k → byteAt (memWrite f off n v) k = byteAt f k) ∧
    ∀ d : Field, d.signed = true → d.w ≠ 1 →
      readField f d = (BitVec.ofNat (8 * d.w) (memRead f d.off d.w)).toInt

/-- R140: the verdict of a decoder on every buffer, and the record on success. -/
def Obligations.DecoderVerdict : Prop :=
  ∀ (lay : Layout) (h code tail : Byte) (f : List Byte),
    decodeFrame lay h code tail none = .error .invalidArgument ∧
    (f.length < lay.len → decodeFrame lay h code tail (some f) = .error .invalidArgument) ∧
    (lay.len ≤ f.length →
      (f.length = lay.len ∧ byteAt f 0 = h ∧ byteAt f 1 = code ∧ byteAt f (lay.len - 1) = tail ∧
          checkParity lay.parity f = true →
        decodeFrame lay h code tail (some f) =
          .ok ⟨byteAt f 2, lay.fields.map fun d => (d.name, readField f d)⟩) ∧
      (¬ (f.length = lay.len ∧ byteAt f 0 = h ∧ byteAt f 1 = code ∧ byteAt f (lay.len - 1) = tail ∧
          checkParity lay.parity f = true) →
        decodeFrame lay h code tail (some f) = .error .frameError))

/-- R141: an encoder writes the first `L` bytes of its destination and no other; header, code, id, tail, each field as R135
and 0 where nothing is. -/
def Obligations.EncoderWrites : Prop :=
  ∀ (lay : Layout) (h code tail : Byte) (r : Record), lay.wf = true →
    encodeInto lay h code tail r none = .error .invalidArgument ∧
    ∀ d : List Byte,
      (d.length < lay.len → encodeInto lay h code tail r (some d) = .error .invalidArgument) ∧
      (lay.len ≤ d.length → ∃ e, encodeInto lay h code tail r (some d) = .ok (e, lay.len) ∧
        e.length = d.length ∧ (∀ k, lay.len ≤ k → byteAt e k = byteAt d k) ∧
        byteAt e 0 = h ∧ byteAt e 1 = code ∧ byteAt e 2 = r.fid ∧ byteAt e (lay.len - 1) = tail ∧
        checkParity lay.parity (e.take lay.len) = true ∧
        (∀ x ∈ lay.fields, x.w ≠ 1 → memRead e x.off x.w = (r.get x.name % (2 ^ (8 * x.w) : Nat)).toNat) ∧
        (∀ x ∈ lay.fields, x.w = 1 → byteAt e x.off &&& x.mask = BitVec.ofInt 8 (r.get x.name) &&& x.mask) ∧
        ∀ k, 3 ≤ k → k + 1 < lay.len → (∀ x ∈ lay.fields, k ∉ x.bytes) →
          (∀ p, lay.parity = .stub p → k ≠ p) → (∀ p lo hi, lay.parity = .byteXor p lo hi → k ≠ p) →
          (∀ p b lo hi, lay.parity = .bitXor p b lo hi → k ≠ p) → byteAt e k = 0x00#8)

/-- R145 with the default layout of R99: a segment whose velocities fit 16 bits comes back from its frame, bits 7:3 of the
direction mask dropped. -/
def Obligations.MoveSegmentCodec : Prop :=
  ∀ (c : Config) (g : MoveSegment), c.wf = true → c.reqLayout.moveQueueAdd = Layout.defaultReq.moveQueueAdd →
    (∀ i, (g.vel.get i).toNat < 2 ^ 16) →
    (encodeReq c .moveQueueAdd (recordOfSegment g)).length = 42 ∧
    ∃ r, decodeReq c .moveQueueAdd (encodeReq c .moveQueueAdd (recordOfSegment g)) = .ok r ∧
      segmentOf r = { g with dirMask := g.dirMask &&& 0x07#8 }

/-! ## The router -/

/-- R170 in every state with the router invariant: overflow, discard, recognition, accumulation. -/
def Obligations.RouterByteRule : Prop :=
  ∀ (s : State) (b : Byte), s.cfg.wf = true → RouterOk s.cfg s.rt →
    let full := s.rt.idx.toNat = s.cfg.routerCap
    let acc := (if full then [] else s.accumulated) ++ [b]
    let base := if full then { s with cnt := { s.cnt with routerOvf := s.cnt.routerOvf + 1#32 } } else s
    ∃ t, exec (.rxByte b) s = .next t ∧ t.result = .ok .unit ∧
      (byteAt acc 0 ≠ s.cfg.hdrReq →
        t.accumulated = [] ∧ { t with rt := s.rt, result := s.result } = base) ∧
      (byteAt acc 0 = s.cfg.hdrReq → 4 ≤ acc.length → b = s.cfg.tailReq →
        ∃ u, u.accumulated = [] ∧ { u with rt := s.rt } = base ∧ t = (dispatch acc u).ok .unit) ∧
      (byteAt acc 0 = s.cfg.hdrReq → ¬ (4 ≤ acc.length ∧ b = s.cfg.tailReq) →
        t.accumulated = acc ∧ { t with rt := s.rt, result := s.result } = base)

/-- A frame whose payload does not hold the tail value, fed byte by byte to an empty accumulator, is dispatched whole, once,
and every byte's result is Ok (R105, R170, R172). -/
def Obligations.StreamedFrameDispatches : Prop :=
  ∀ (s : State) (f : List Byte), s.cfg.wf = true → RouterOk s.cfg s.rt → s.rt.idx = 0#8 →
    4 ≤ f.length → f.length ≤ s.cfg.routerCap → byteAt f 0 = s.cfg.hdrReq → byteAt f (f.length - 1) = s.cfg.tailReq →
    (∀ k, 3 ≤ k → k + 1 < f.length → byteAt f k ≠ s.cfg.tailReq) →
    ∃ u, u.accumulated = [] ∧ { u with rt := s.rt, result := s.result } = s ∧
      execAll (f.map .rxByte) s = some ((dispatch f u).ok .unit, List.replicate f.length (.ok .unit))

/-- R360: a tail value inside the payload ends the frame there; the cut frame is shorter than its type's length, so it is
dropped and counted and nothing else happens. -/
def Obligations.TailInPayloadTruncates : Prop :=
  ∀ (s : State) (t : ReqType) (f : List Byte) (k : Nat), s.cfg.wf = true → RouterOk s.cfg s.rt → s.rt.idx = 0#8 →
    f.length = (s.cfg.reqLayout.get t).len → byteAt f 0 = s.cfg.hdrReq → byteAt f 1 = s.cfg.reqCode.get t →
    3 ≤ k → k + 1 < f.length → byteAt f k = s.cfg.tailReq → (∀ j, 3 ≤ j → j < k → byteAt f j ≠ s.cfg.tailReq) →
    ∃ u, execAll ((f.take (k + 1)).map .rxByte) s = some (u, List.replicate (k + 1) (.ok .unit)) ∧
      u.accumulated = [] ∧ u.cnt = { s.cnt with frameDrop := s.cnt.frameDrop + 1#32 } ∧
      { u with rt := s.rt, cnt := s.cnt, result := s.result } = s

/-- R175: a request that does not decode is dropped and counted, for each of the eleven types. -/
def Obligations.MalformedRequestDropped : Prop :=
  ∀ (s : State) (t : ReqType) (f : List Byte) (k : ErrorKind), decodeReq s.cfg t f = .error k →
    exec (Instr.ofRequest t f) s =
      .next { s with cnt := { s.cnt with frameDrop := s.cnt.frameDrop + 1#32 }, result := .ok .unit }

/-- R172, R174: a complete frame runs the handler of its type byte, as the request instruction does; one of no registered
type is counted and dropped. -/
def Obligations.DispatchByType : Prop :=
  ∀ (s : State) (f : List Byte), s.cfg.wf = true →
    (∀ t, s.cfg.reqCode.get t = byteAt f 1 → exec (Instr.ofRequest t f) s = .next ((dispatch f s).ok .unit)) ∧
    ((∀ t, s.cfg.reqCode.get t ≠ byteAt f 1) →
      dispatch f s = { s with cnt := { s.cnt with unhandled := s.cnt.unhandled + 1#32 } })

/-- R171: a poll-only transfer is counted and changes nothing else; any other is its bytes, in order, as RX_BYTE
operations. -/
def Obligations.TransferIsItsBytes : Prop :=
  ∀ (s : State) (buf : List Byte),
    (byteAt buf 0 = s.cfg.poll →
      exec (.rxTransfer buf) s = .next { s with cnt := { s.cnt with poll := s.cnt.poll + 1#32 }, result := .ok .unit }) ∧
    (byteAt buf 0 ≠ s.cfg.poll →
      ∃ t u, exec (.rxTransfer buf) s = .next t ∧
        execAll (buf.map .rxByte) s = some (u, List.replicate buf.length (.ok .unit)) ∧
        t = { u with result := .ok .unit })

/-! ## The response FIFO and the SPI registers -/

/-- R201, R210: the three outcomes of a push. -/
def Obligations.PushRule : Prop :=
  ∀ (s : State) (f : List Byte), s.cfg.wf = true → FifoOk s.cfg s.rf →
    (f.length = 0 ∨ 42 < f.length → exec (.fifoPushExt f) s = .next { s with result := .err .invalidArgument }) ∧
    (1 ≤ f.length → f.length ≤ 42 → s.rf.count.toNat = s.cfg.respFifoCap →
      exec (.fifoPushExt f) s = .next { s with result := .err .allocationError }) ∧
    (1 ≤ f.length → f.length ≤ 42 → s.rf.count.toNat < s.cfg.respFifoCap →
      ∃ t, exec (.fifoPushExt f) s = .next t ∧ t.result = .ok .unit ∧ FramePushed s.cfg f s.rf t.rf ∧
        { t with rf := s.rf, result := s.result } = s)

/-- R203: a pop of an empty FIFO, into too small a buffer (the frame is retained), and of the oldest frame. -/
def Obligations.PopRule : Prop :=
  ∀ (s : State) (c : Byte), s.cfg.wf = true → FifoOk s.cfg s.rf →
    (s.held = [] → exec (.fifoPop c) s = .next { s with result := .ok (.popped 0#8 []) }) ∧
    ∀ f rest, s.held = f :: rest →
      (c.toNat < f.length → exec (.fifoPop c) s = .next { s with result := .err .rangeError }) ∧
      (f.length ≤ c.toNat → ∃ t, exec (.fifoPop c) s = .next t ∧
        t.result = .ok (.popped (BitVec.ofNat 8 f.length) f) ∧ FramePopped s.cfg s.rf t.rf ∧
        { t with rf := s.rf, result := s.result } = s)

/-- R205, for any number of frames the FIFO can hold: they leave in the order they entered, and a further pop finds it
empty. -/
def Obligations.FifoOrder : Prop :=
  ∀ (s : State) (fs : List (List Byte)) (c : Byte), s.cfg.wf = true → FifoOk s.cfg s.rf → s.rf.count = 0#8 →
    fs.length ≤ s.cfg.respFifoCap → (∀ f ∈ fs, 1 ≤ f.length ∧ f.length ≤ 42 ∧ f.length ≤ c.toNat) →
    ∃ t, execAll (fs.map .fifoPushExt ++ List.replicate (fs.length + 1) (.fifoPop c)) s =
      some (t, List.replicate fs.length (.ok .unit) ++
        fs.map (fun f => .ok (.popped (BitVec.ofNat 8 f.length) f)) ++ [.ok (.popped 0#8 [])])

/-- R206: the oldest frame moves to the pending register; otherwise nothing changes. -/
def Obligations.LoadPendingRule : Prop :=
  ∀ s : State, s.cfg.wf = true → FifoOk s.cfg s.rf → SpiOk s.cfg s.spi →
    (s.spi.pending.valid = true ∨ s.held = [] → exec .loadPending s = .next { s with result := .ok (.loaded false) }) ∧
    ∀ f rest, s.spi.pending.valid = false → s.held = f :: rest →
      ∃ t, exec .loadPending s = .next t ∧ t.result = .ok (.loaded true) ∧ FramePopped s.cfg s.rf t.rf ∧
        t.spi.pending.valid = true ∧ t.spi.pending.len.toNat = f.length ∧ t.spi.pending.data.take f.length = f ∧
        t.spi.tx = s.spi.tx ∧ { t with rf := s.rf, spi := s.spi, result := s.result } = s

/-- R207, R208, R211: the buffer, the outcome and the consumption of PRIME, for each case of the decision function. -/
def Obligations.PrimeRule : Prop :=
  ∀ (s : State) (st : Byte), SpiOk s.cfg s.spi →
    let n := s.spi.pending.len.toNat
    let cap := s.cfg.xferLen
    ∃ t o, exec (.prime st) s = .next t ∧ t.result = .ok (.primed o) ∧
      t.spi.pending.len = s.spi.pending.len ∧ t.spi.pending.data = s.spi.pending.data ∧
      { t with spi := s.spi, result := s.result } = s ∧
      (s.spi.pending.valid = true → n ≤ cap →
        t.spi.tx = s.spi.pending.data.take n ++ List.replicate (cap - n) s.cfg.ready ∧ outcomeCode o = 2 ∧
        t.spi.pending.valid = false) ∧
      (s.spi.pending.valid = true → cap < n →
        t.spi.tx = List.replicate cap st ∧ outcomeCode o = 3 ∧ t.spi.pending.valid = true) ∧
      (s.spi.pending.valid = false →
        t.spi.tx = List.replicate cap st ∧ t.spi.pending.valid = false ∧
        outcomeCode o = if st = s.cfg.ready then 0 else if st = s.cfg.busy then 1 else 3)

/-- R93, R204, R209: the operations that only answer. -/
def Obligations.ReadingOperations : Prop :=
  ∀ (s : State) (n : Byte),
    exec .nop s = .next { s with result := .ok .unit } ∧
    exec .fifoCount s = .next { s with result := .ok (.count s.rf.count) } ∧
    (s.cfg.rxqCap ≤ n.toNat → exec (.statusSelect n) s = .next { s with result := .ok (.status s.cfg.busy) }) ∧
    (n.toNat < s.cfg.rxqCap → exec (.statusSelect n) s = .next { s with result := .ok (.status s.cfg.ready) })

/-! ## The requests -/

/-- R181, R220: not safe, queue full, and the enqueue. -/
def Obligations.MoveQueueAddRule : Prop :=
  ∀ (s : State) (f : List Byte) (r : Record), s.cfg.wf = true → QueueOk s.cfg s.q → FifoOk s.cfg s.rf →
    decodeReq s.cfg .moveQueueAdd f = .ok r →
    let g := segmentOf r
    let ack := fun (status : Byte) (depth : Nat) => encodeResp s.cfg .ackMoveQueueAdd
      ⟨g.fid, [(.status, (status.toNat : Int)), (.qdepth, ((min depth 255 : Nat) : Int))]⟩
    ∃ t, exec (.reqMoveQueueAdd f) s = .next t ∧ t.result = .ok .unit ∧
      (s.ctl.safe = false → Responded (ack s.cfg.stNotSafe s.q.count.toNat) s t ∧ SameButResponse s t) ∧
      (s.ctl.safe = true → s.q.count.toNat = s.cfg.qcap →
        Responded (ack s.cfg.stQueueFull s.q.count.toNat) s t ∧ SameButResponse s t) ∧
      (s.ctl.safe = true → s.q.count.toNat < s.cfg.qcap →
        Responded (ack s.cfg.stOk (s.q.count.toNat + 1)) s t ∧ Enqueued s.cfg g s.q t.q ∧
        (∀ i, t.ax.get i =
          if g.steps.get i ≠ 0#32 then { s.ax.get i with braking := false } else s.ax.get i) ∧
        t.fsm = (if s.fsm = .idle ∨ s.fsm = .done then .queued else s.fsm) ∧
        { t with q := s.q, ax := s.ax, fsm := s.fsm, rf := s.rf, cnt := s.cnt, result := s.result } = s)

/-- R182, R253: the status snapshot, with the state codes of R23. -/
def Obligations.MoveQueueStatusRule : Prop :=
  ∀ (s : State) (f : List Byte) (r : Record), s.cfg.wf = true → FifoOk s.cfg s.rf →
    (∀ i, (s.ax.get i).emitted.toNat ≤ (s.ax.get i).total.toNat) →
    decodeReq s.cfg .moveQueueStatus f = .ok r →
    let code : Int := match s.fsm with
      | .idle => 0 | .queued => 1 | .running => 2 | .stopping => 3 | .done => 4 | .paused => 5 | .error => 6
    let pct := fun i => if (s.ax.get i).total.toNat = 0 then 100 else (s.ax.get i).emitted.toNat * 100 / (s.ax.get i).total.toNat
    let err := fun i => min (max (s.ax.get i).err.toInt (-128)) 127
    ∃ t, exec (.reqMoveQueueStatus f) s = .next t ∧ t.result = .ok .unit ∧ SameButResponse s t ∧
      (∀ i, pct i ≤ 100) ∧
      Responded (encodeResp s.cfg .status
        ⟨r.fid, [(.state, code), (.qdepth, ((min s.q.count.toNat 255 : Nat) : Int)),
          (.pct .x, (pct .x : Int)), (.pct .y, (pct .y : Int)), (.pct .z, (pct .z : Int)),
          (.err .x, err .x), (.err .y, err .y), (.err .z, err .z)]⟩) s t

/-- R183, R233, R230: an active segment, a queued one, none. -/
def Obligations.StartMoveRule : Prop :=
  ∀ (s : State) (f : List Byte) (r : Record), s.cfg.wf = true → QueueOk s.cfg s.q → FifoOk s.cfg s.rf →
    decodeReq s.cfg .startMove f = .ok r →
    let ack := fun (status : Byte) (depth : Nat) => encodeResp s.cfg .ackStartMove
      ⟨r.fid, [(.status, (status.toNat : Int)), (.qdepth, ((min depth 255 : Nat) : Int))]⟩
    ∃ t, exec (.reqStartMove f) s = .next t ∧ t.result = .ok .unit ∧
      (s.seg.active = true →
        Responded (ack s.cfg.stOk s.q.count.toNat) s t ∧ t.fsm = .running ∧
        { t with fsm := s.fsm, rf := s.rf, cnt := s.cnt, result := s.result } = s) ∧
      (s.seg.active = false → s.q.count = 0#16 →
        Responded (ack s.cfg.stNotReady 0) s t ∧ SameButResponse s t) ∧
      (s.seg.active = false → s.q.count ≠ 0#16 →
        Responded (ack s.cfg.stOk (s.q.count.toNat - 1)) s t ∧ t.fsm = .running ∧
        Begun false (queueSlot s.q s.q.head.toNat) s t ∧
        { t with
          fsm := s.fsm, seg := s.seg, q := s.q, ax := s.ax, pin := s.pin, trace := s.trace, rf := s.rf,
          cnt := s.cnt, result := s.result } = s)

/-- R184, R236: the move-end request stops the engine in every state. -/
def Obligations.MoveEndRule : Prop :=
  ∀ (s : State) (f : List Byte) (r : Record), s.cfg.wf = true → FifoOk s.cfg s.rf →
    decodeReq s.cfg .moveEnd f = .ok r →
    ∃ t, exec (.reqMoveEnd f) s = .next t ∧ t.result = .ok .unit ∧ Stopped r.fid s.cfg.stStopped s t

/-- R185, R39: the selected axes' absolute position becomes the given base. -/
def Obligations.SetOriginRule : Prop :=
  ∀ (s : State) (f : List Byte) (r : Record), s.cfg.wf = true → FifoOk s.cfg s.rf →
    decodeReq s.cfg .setOrigin f = .ok r →
    ∃ t, exec (.reqSetOrigin f) s = .next t ∧ t.result = .ok .unit ∧
      (∀ i, (BitVec.ofInt 8 (r.get .axisMask)).getLsbD i.index = true →
        t.enc.get i = { s.enc.get i with
          origin := (s.enc.get i).cum, base := (BitVec.ofInt 32 (r.get (.base i))).signExtend 64 } ∧
        (t.enc.get i).abs = (BitVec.ofInt 32 (r.get (.base i))).signExtend 64) ∧
      (∀ i, (BitVec.ofInt 8 (r.get .axisMask)).getLsbD i.index = false → t.enc.get i = s.enc.get i) ∧
      Responded (encodeResp s.cfg .ackSetOrigin
        ⟨r.fid, [(.status, (s.cfg.stOk.toNat : Int)), (.qdepth, ((min s.q.count.toNat 255 : Nat) : Int))]⟩) s t ∧
      { t with enc := s.enc, rf := s.rf, cnt := s.cnt, result := s.result } = s

/-- R186, R159, R39: the response carries `base + (cum - origin)` of each axis, cut to 32 bits. -/
def Obligations.EncoderStatusRule : Prop :=
  ∀ (s : State) (f : List Byte) (r : Record), s.cfg.wf = true → FifoOk s.cfg s.rf →
    decodeReq s.cfg .encoderStatus f = .ok r →
    let pos := fun i => ((s.enc.get i).base.toInt + ((s.enc.get i).cum.toInt - (s.enc.get i).origin.toInt)).bmod (2 ^ 32)
    ∃ t, exec (.reqEncoderStatus f) s = .next t ∧ t.result = .ok .unit ∧ SameButResponse s t ∧
      Responded (encodeResp s.cfg .encStatus ⟨r.fid, [(.abs .x, pos .x), (.abs .y, pos .y), (.abs .z, pos .z)]⟩) s t

/-- R189 to R191: LED_CONTROL, HOME and PROBE_LEVEL are forwarded with their frame and answered by no response. -/
def Obligations.ForwardedRequests : Prop :=
  ∀ (s : State) (f : List Byte) (r : Record),
    (decodeReq s.cfg .ledControl f = .ok r →
      exec (.reqLedControl f) s =
        .next { s with trace := s.trace ++ [.extService .ledControl f], result := .ok .unit }) ∧
    (decodeReq s.cfg .home f = .ok r →
      exec (.reqHome f) s = .next { s with trace := s.trace ++ [.extService .home f], result := .ok .unit }) ∧
    (decodeReq s.cfg .probeLevel f = .ok r →
      exec (.reqProbeLevel f) s =
        .next { s with trace := s.trace ++ [.extService .probeLevel f], result := .ok .unit })

/-- R187: 1 to 256 is taken, anything else is refused with ST_BAD_ARG. -/
def Obligations.MicrostepsRule : Prop :=
  ∀ (s : State) (f : List Byte) (r : Record), s.cfg.wf = true → FifoOk s.cfg s.rf →
    decodeReq s.cfg .microsteps f = .ok r →
    let m := BitVec.ofInt 16 (r.get .microsteps)
    let ack := fun (status : Byte) => encodeResp s.cfg .ackMicrosteps
      ⟨r.fid, [(.status, (status.toNat : Int)), (.qdepth, ((min s.q.count.toNat 255 : Nat) : Int))]⟩
    ∃ t, exec (.reqMicrosteps f) s = .next t ∧ t.result = .ok .unit ∧
      (1 ≤ m.toNat ∧ m.toNat ≤ 256 →
        Responded (ack s.cfg.stOk) s t ∧ t.ctl = { s.ctl with microsteps := m } ∧
        { t with ctl := s.ctl, rf := s.rf, cnt := s.cnt, result := s.result } = s) ∧
      (¬ (1 ≤ m.toNat ∧ m.toNat ≤ 256) → Responded (ack s.cfg.stBadArg) s t ∧ SameButResponse s t)

/-- R188, R222: arming clears the queue and leaves Queued; disarming changes the enable alone. -/
def Obligations.AutoFrictionRule : Prop :=
  ∀ (s : State) (f : List Byte) (r : Record), s.cfg.wf = true → FifoOk s.cfg s.rf →
    decodeReq s.cfg .autoFriction f = .ok r →
    let on := BitVec.ofInt 8 (r.get .enable) ≠ 0#8
    let ack := fun (depth : Nat) => encodeResp s.cfg .ackAutoFriction
      ⟨r.fid, [(.status, (s.cfg.stOk.toNat : Int)), (.qdepth, ((min depth 255 : Nat) : Int))]⟩
    ∃ t, exec (.reqAutoFriction f) s = .next t ∧ t.result = .ok .unit ∧
      (on → Responded (ack 0) s t ∧ t.ctl = { s.ctl with frictionEn := true } ∧
        t.q = { s.q with head := 0#16, tail := 0#16, count := 0#16, qsum := .same 0#64 } ∧
        t.fsm = (if s.fsm = .queued then .idle else s.fsm) ∧
        { t with ctl := s.ctl, q := s.q, fsm := s.fsm, rf := s.rf, cnt := s.cnt, result := s.result } = s) ∧
      (¬ on → Responded (ack s.q.count.toNat) s t ∧ t.ctl = { s.ctl with frictionEn := false } ∧
        { t with ctl := s.ctl, rf := s.rf, cnt := s.cnt, result := s.result } = s)

/-- A response row as an instruction, the model's reading (log entry 3): the frame is read with the decoder of its type and
its record is sent; a frame that does not decode is dropped and counted, and its error does not reach the port (R322). -/
def Obligations.ResponseRows : Prop :=
  ∀ (s : State) (t : RespType) (i : Instr) (f : List Byte), s.cfg.wf = true → FifoOk s.cfg s.rf →
    (t, i) ∈ [(.ackMoveQueueAdd, .respAckMoveQueueAdd f), (.ackStartMove, .respAckStartMove f),
      (.ackSetOrigin, .respAckSetOrigin f), (.ackMicrosteps, .respAckMicrosteps f),
      (.ackAutoFriction, .respAckAutoFriction f), (.status, .respStatus f), (.moveEnd, .respMoveEnd f),
      (.encStatus, .respEncStatus f)] →
    (∀ r, decodeResp s.cfg t f = .ok r → ∃ u, exec i s = .next u ∧ u.result = .ok .unit ∧
      Responded (encodeResp s.cfg t r) s u ∧ SameButResponse s u) ∧
    ∀ k, decodeResp s.cfg t f = .error k →
      exec i s = .next { s with cnt := { s.cnt with frameDrop := s.cnt.frameDrop + 1#32 }, result := .ok .unit }

/-! ## Stop, safety, reset -/

/-- R237: the emergency stop, in every state. -/
def Obligations.EstopRule : Prop :=
  ∀ s : State, s.cfg.wf = true → FifoOk s.cfg s.rf →
    ∃ t, exec .estop s = .next t ∧ t.result = .ok .unit ∧
      Stopped (if s.seg.active then s.seg.fid else 0#8) s.cfg.stEstop s t

/-- R240. -/
def Obligations.SetSafeRule : Prop :=
  ∀ s : State,
    exec .setSafe0 s = .next { s with ctl := { s.ctl with safe := false }, result := .ok .unit } ∧
    exec .setSafe1 s = .next { s with ctl := { s.ctl with safe := true }, result := .ok .unit }

/-- R350: what RESET and power-on leave in every piece of state the rule gives a value, and their events. Nothing is said
of the contents the rule leaves unspecified but that the buffers keep their lengths. -/
def Obligations.ResetRule : Prop :=
  ∀ s : State, s.cfg.wf = true →
    (ResetValues (State.resetWith s.cfg) ∧ (State.resetWith s.cfg).cfg = s.cfg ∧ (State.resetWith s.cfg).trace = []) ∧
    ∃ t, exec .reset s = .next t ∧ ResetValues t ∧ t.cfg = s.cfg ∧ t.port = s.port ∧
      t.trace = s.trace ++ Axis.all.flatMap fun i =>
        (if (s.pin.get i).step then [Event.stepLow i] else []) ++ (if (s.pin.get i).en then [Event.drvDisable i] else [])

/-! ## The HF tick -/

/-- R260, R261 outside Running: the holds count down and nothing else changes. -/
def Obligations.HfTickOutsideRunning : Prop :=
  ∀ s : State, s.cfg.wf = true → s.fsm ≠ .running →
    ∃ t, exec .tickHf s = .next t ∧ t.result = .ok .unit ∧
      (∀ i, HoldsClosed s.cfg (s.ax.get i) (t.ax.get i) (s.pin.get i) (t.pin.get i)) ∧
      t.trace = s.trace ++ fallEvents s.ax ∧
      { t with ax := s.ax, pin := s.pin, trace := s.trace, result := s.result } = s

/-- R261, R262, R263 in Running: phases 1 and 2 run for every axis, and while a segment is not complete after them the tick
does nothing else (what it does on completion is `HfTickCompletes`). -/
def Obligations.HfTickSteps : Prop :=
  ∀ s : State, s.cfg.wf = true → s.fsm = .running → (∀ i, AxisOk s.cfg (s.ax.get i)) →
    ∃ t u, exec .tickHf s = .next t ∧ t.result = .ok .unit ∧ HfPhases s u ∧
      ((∃ j, (u.ax.get j).emitted ≠ (u.ax.get j).total) → t = { u with result := .ok .unit })

/-- R267: phases 1 and 2 give `u`; the segment being complete there, the next one begins chained, or the engine is Done with
its notification, or a line is still high and the check waits. -/
def Obligations.HfTickCompletes : Prop :=
  ∀ s u : State, s.cfg.wf = true → s.fsm = .running → (∀ i, AxisOk s.cfg (s.ax.get i)) → QueueOk s.cfg s.q →
    FifoOk s.cfg s.rf → HfPhases s u → (∀ i, (u.ax.get i).emitted = (u.ax.get i).total) →
    ∃ t, exec .tickHf s = .next t ∧ t.result = .ok .unit ∧
      (s.q.count ≠ 0#16 →
        Begun true (queueSlot s.q s.q.head.toNat) u t ∧
        { t with seg := u.seg, q := u.q, ax := u.ax, pin := u.pin, trace := u.trace, result := u.result } = u) ∧
      (s.q.count = 0#16 → (∀ i, (u.ax.get i).highHold = 0#32) →
        t.fsm = .done ∧ AxesStopped u t ∧
        Responded (encodeResp s.cfg .moveEnd ⟨s.seg.fid, [(.status, (s.cfg.stOk.toNat : Int))]⟩) s t ∧
        { t with
          fsm := u.fsm, seg := u.seg, ax := u.ax, pin := u.pin, trace := u.trace, rf := u.rf, cnt := u.cnt,
          result := u.result } = u) ∧
      (s.q.count = 0#16 → (∃ i, (u.ax.get i).highHold ≠ 0#32) → t = { u with result := .ok .unit })

/-- R264 over HF ticks alone: while they run, a line with `h` ticks of its high hold left stays high for `h - 1` ticks and falls in the
`h`-th, and then the low hold starts; `h` is PULSE_HIGH_TICKS right after the step (R263). -/
def Obligations.PulseWidth : Prop :=
  ∀ (s : State) (i : Axis) (h : Nat), s.Good → (s.ax.get i).highHold.toNat = h → 0 < h →
    (∀ n, n < h → ((ticksHf n s).pin.get i).step = true ∧
      ∃ es, (ticksHf n s).trace = s.trace ++ es ∧ .stepLow i ∉ es) ∧
    (∃ es, (ticksHf h s).trace = (ticksHf (h - 1) s).trace ++ es ∧ .stepLow i ∈ es) ∧
    ((ticksHf h s).fsm = .running → ((ticksHf h s).ax.get i).lowHold.toNat = s.cfg.pulseLow)

/-- R268 for the HF ticks: with the queue empty and an increment of at least 1 on every axis with work, the engine reaches
Done, having raised each line once for every step that was left. -/
def Obligations.MotionCompletes : Prop :=
  ∀ s : State, s.Good → s.fsm = .running → s.q.count = 0#16 →
    (∀ i, (s.ax.get i).emitted.toNat < (s.ax.get i).total.toNat → 1 ≤ (s.ax.get i).incr.toNat) →
    ∃ n es, (ticksHf n s).fsm = .done ∧ (ticksHf n s).q.count = 0#16 ∧ (ticksHf n s).trace = s.trace ++ es ∧
      ∀ i, es.count (.stepHigh i) = (s.ax.get i).total.toNat - (s.ax.get i).emitted.toNat

/-! ## The LF tick -/

/-- R281, R282: the LF tick samples the encoders in every engine state; outside Running it clears the master besides, and
does nothing else. -/
def Obligations.LfTickSamples : Prop :=
  ∀ (s : State) (raw : PerAxis U32),
    ∃ t, exec (.tickLf raw) s = .next t ∧ t.result = .ok .unit ∧
      (∀ i, Sampled (s.cfg.encWidth.get i) (raw.get i) (s.enc.get i) (t.enc.get i)) ∧
      (s.fsm ≠ .running → masterCode t.ctl.master = 0xFF#8 ∧
        { t with enc := s.enc, ctl := { t.ctl with master := s.ctl.master }, result := s.result } = s)

/-- R281, R284, R285 in Running, and the frame of the LF tick: the samples, the errors, and all that it never writes. -/
def Obligations.LfTickErrors : Prop :=
  ∀ (s : State) (raw : PerAxis U32), s.fsm = .running →
    ∃ t, exec (.tickLf raw) s = .next t ∧ t.result = .ok .unit ∧
      (∀ i, Sampled (s.cfg.encWidth.get i) (raw.get i) (s.enc.get i) (t.enc.get i)) ∧
      (∀ i, (t.ax.get i).err.toInt =
        errorRule s.cfg s.ctl.microsteps i (s.pin.get i).dir (t.enc.get i).cum (s.ax.get i)) ∧
      (∀ i, { t.ax.get i with
        err := (s.ax.get i).err, dFilt := (s.ax.get i).dFilt, integ := (s.ax.get i).integ, ePrev := (s.ax.get i).ePrev,
        braking := (s.ax.get i).braking, accFrac := (s.ax.get i).accFrac, vActual := (s.ax.get i).vActual,
        incr := (s.ax.get i).incr } = s.ax.get i) ∧
      (∀ i, (s.ax.get i).total = 0#32 → { t.ax.get i with err := (s.ax.get i).err } = s.ax.get i) ∧
      { t with enc := s.enc, ax := s.ax, ctl := { t.ctl with master := s.ctl.master }, result := s.result } = s

/-- R286: the master is the candidate with the least progress; with no candidate, the axis with the most work left; with
none, NONE. -/
def Obligations.MasterAxisRule : Prop :=
  ∀ (s : State) (raw : PerAxis U32), s.fsm = .running →
    ∃ t, exec (.tickLf raw) s = .next t ∧
      ((∃ j, Outstanding (s.ax.get j)) → ∃ k, t.ctl.master = some k ∧ LeastProgress s k) ∧
      ((¬ ∃ j, Outstanding (s.ax.get j)) → (∃ j, 0 < workLeft s j) → ∃ k, t.ctl.master = some k ∧ MostWork s k) ∧
      ((¬ ∃ j, Outstanding (s.ax.get j)) → (¬ ∃ j, 0 < workLeft s j) → t.ctl.master = none)

/-- R287, R288, R289 on an axis with steps: the PID state, and, with no ramp, the velocity. -/
def Obligations.PidAndThrottleRule : Prop :=
  ∀ (s : State) (raw : PerAxis U32) (i : Axis), s.cfg.wf = true → s.fsm = .running → (s.ax.get i).total ≠ 0#32 →
    ∃ t, exec (.tickLf raw) s = .next t ∧
      (t.ax.get i).dFilt.toInt = pidD s.cfg (s.ax.get i) (t.ax.get i).err.toInt ∧
      (t.ax.get i).ePrev.toInt = pidE1 s.cfg (t.ax.get i).err.toInt ∧
      (pidClamped s.cfg (s.ax.get i) (t.ax.get i).err.toInt = pidU s.cfg (s.ax.get i) (t.ax.get i).err.toInt →
        (t.ax.get i).integ = BitVec.ofInt 32
          (min (max ((s.ax.get i).integ.toInt + pidE1 s.cfg (t.ax.get i).err.toInt) (-s.cfg.iClamp)) s.cfg.iClamp)) ∧
      (pidClamped s.cfg (s.ax.get i) (t.ax.get i).err.toInt ≠ pidU s.cfg (s.ax.get i) (t.ax.get i).err.toInt →
        (t.ax.get i).integ = (s.ax.get i).integ) ∧
      (s.cfg.accel = 0 →
        (t.ax.get i).vActual =
          BitVec.ofInt 32 (controlRule s.cfg t.ctl.master i (s.ax.get i) (t.ax.get i).err.toInt) ∧
        (t.ax.get i).braking = (s.ax.get i).braking ∧ (t.ax.get i).accFrac = (s.ax.get i).accFrac)

/-- R290, R291 on an axis with steps: the braking latch, the fractional accelerator and the velocity, without a ramp and
with one. The sum `acc_frac + ACCEL_Q16` is R291's; that it is cut mod 2^32 where it does not fit acc_frac's u32 (`acc`) is
the model's choice (log entry 13). -/
def Obligations.RampRule : Prop :=
  ∀ (s : State) (raw : PerAxis U32) (i : Axis), s.cfg.wf = true → s.fsm = .running → (s.ax.get i).total ≠ 0#32 →
    ∃ t, exec (.tickLf raw) s = .next t ∧
      let a := s.ax.get i
      let v := a.vActual.toNat
      let tv := (controlRule s.cfg t.ctl.master i a (t.ax.get i).err.toInt).toNat
      let sum := a.accFrac.toNat + s.cfg.accel * 65536 / s.cfg.fLf
      let acc := if sum < 2 ^ 32 then sum else sum % 2 ^ 32
      let units := acc / 65536
      (s.cfg.accel = 0 →
        (t.ax.get i).vActual = BitVec.ofNat 32 tv ∧ (t.ax.get i).braking = a.braking ∧ (t.ax.get i).accFrac = a.accFrac) ∧
      (0 < s.cfg.accel →
        ((t.ax.get i).braking = true ↔ a.braking = true ∨ (MustBrake s t.ctl.master i ∧ 0 < v)) ∧
        (t.ax.get i).accFrac.toNat = acc % 65536 ∧
        ((t.ax.get i).braking = true → (t.ax.get i).vActual.toNat = max (v - units) (min v s.cfg.vFloor)) ∧
        ((t.ax.get i).braking = false → v < tv → (t.ax.get i).vActual = BitVec.ofNat 32 (min (v + units) tv)) ∧
        ((t.ax.get i).braking = false → tv < v → (t.ax.get i).vActual.toNat = max (v - units) tv) ∧
        ((t.ax.get i).braking = false → v = tv → (t.ax.get i).vActual.toNat = v))

/-- R292, R293 on an axis with steps: the friction output and the increment of the velocity this tick leaves. -/
def Obligations.IncrementRule : Prop :=
  ∀ (s : State) (raw : PerAxis U32) (i : Axis), s.cfg.wf = true → s.fsm = .running → (s.ax.get i).total ≠ 0#32 →
    ∃ t, exec (.tickLf raw) s = .next t ∧
      let v := (t.ax.get i).vActual.toNat
      let out :=
        if s.ctl.frictionEn = true then
          if v ≤ s.cfg.fStatic then 0 else (v - s.cfg.fStatic) * s.cfg.fVisc / 65536
        else v
      (out = 0 → (t.ax.get i).incr = 0#32) ∧
      (0 < out → s.cfg.fHf / (s.cfg.pulseHigh + s.cfg.pulseLow) ≤ out → (t.ax.get i).incr.toNat = 65536) ∧
      (0 < out → out < s.cfg.fHf / (s.cfg.pulseHigh + s.cfg.pulseLow) →
        (t.ax.get i).incr.toNat = out * 65536 / (s.cfg.fHf - (s.cfg.pulseHigh + s.cfg.pulseLow - 1) * out) ∧
        (t.ax.get i).incr.toNat < 65536)

/-- R294 with the queue empty: once an axis brakes, its velocity never rises through any ticks, and while the move lasts the
latch stays and the velocity keeps its floor. -/
def Obligations.BrakingNeverSpeedsUp : Prop :=
  ∀ (s t : State) (i : Axis) (ticks : List Instr) (rs : List OpResult), s.Good → s.fsm = .running → 0 < s.cfg.accel →
    s.q.count = 0#16 → (s.ax.get i).braking = true → (∀ k ∈ ticks, k = .tickHf ∨ ∃ raw, k = .tickLf raw) →
    execAll ticks s = some (t, rs) →
    (t.ax.get i).vActual.toNat ≤ (s.ax.get i).vActual.toNat ∧
    (t.fsm = .running → (t.ax.get i).braking = true ∧
      min s.cfg.vFloor (s.ax.get i).vActual.toNat ≤ (t.ax.get i).vActual.toNat)

/-! ## Invariants -/

/-- R26, R27, R223: every step keeps the queue invariant. -/
def Obligations.QueueInvariant : Prop :=
  ∀ s t : State, QueueOk s.cfg s.q → step s = .next t → QueueOk t.cfg t.q

/-- R29 to R34: every step keeps the axis invariants. -/
def Obligations.AxisInvariant : Prop :=
  ∀ s t : State, (∀ i, AxisOk s.cfg (s.ax.get i)) → step s = .next t → ∀ i, AxisOk t.cfg (t.ax.get i)

/-- R23, R35, R36, R239: every step keeps the engine invariant. -/
def Obligations.EngineInvariant : Prop :=
  ∀ s t : State, EngineOk s → step s = .next t → EngineOk t

/-- Every step keeps a good state good. -/
def Obligations.GoodInvariant : Prop :=
  ∀ s t : State, s.Good → step s = .next t → t.Good

/-- R75, R322, R324, K2: from a good state a step never faults, and it is refused only for an item that spells nothing or
a reserved word; in a state that breaks an invariant it faults. -/
def Obligations.GoodStepAnswers : Prop :=
  (∀ s : State, s.Good →
    (∃ t, step s = .next t) ∨ (∃ e, decode s.cfg s.nextItem = .error e ∧ step s = .refused (.illegalItem e)) ∨
    (∃ rest, decode s.cfg s.nextItem = .ok (.reservedD rest) ∧ step s = .refused .reservedOpD) ∨
    (∃ rest, decode s.cfg s.nextItem = .ok (.reservedE rest) ∧ step s = .refused .reservedOpE)) ∧
  ∀ s : State, s.cfg.wf = true → s.fsm.between = true → ¬ s.Sound → ∃ f, step s = .fault f

/-- The state after power-on is good, in every configuration the model accepts and in that of `State.reset`. The contents
the spec leaves unspecified (log entry 4) play no part in it. -/
def Obligations.PowerOnIsGood : Prop :=
  State.reset.Good ∧ ∀ c : Config, c.wf = true → (State.resetWith c).Good

/-! ## The whole machine -/

/-- R250: the engine changes state by these rows only (the router operations run the request rows through `dispatch`). -/
def Obligations.EngineTransitions : Prop :=
  ∀ (i : Instr) (s t : State), EngineOk s → (∀ b, i ≠ .rxByte b) → (∀ b, i ≠ .rxTransfer b) → exec i s = .next t →
    t.fsm ≠ s.fsm →
    (∃ f, i = .reqMoveQueueAdd f ∧ (s.fsm = .idle ∨ s.fsm = .done) ∧ t.fsm = .queued) ∨
    (∃ f, i = .reqStartMove f ∧ s.fsm ≠ .running ∧ s.q.count ≠ 0#16 ∧ t.fsm = .running) ∨
    (i = .tickHf ∧ s.fsm = .running ∧ s.q.count = 0#16 ∧ t.fsm = .done) ∨
    (∃ f, i = .reqMoveEnd f ∧ t.fsm = .idle) ∨ (i = .estop ∧ t.fsm = .idle) ∨ (i = .reset ∧ t.fsm = .idle) ∨
    (∃ f, i = .reqAutoFriction f ∧ s.fsm = .queued ∧ t.fsm = .idle ∧ t.ctl.frictionEn = true ∧ t.q.count = 0#16)

/-- Who writes each register of R20 (R23 to R28, R37 to R49, R53): the instructions named, and nothing else. A router
operation stands for the requests it may dispatch. -/
def Obligations.RegisterWriters : Prop :=
  ∀ (i : Instr) (s t : State), exec i s = .next t →
    t.cfg = s.cfg ∧ t.port = s.port ∧
    (i ≠ .reset →
      (t.fsm ≠ s.fsm → mayRequestAny [.moveQueueAdd, .startMove, .moveEnd, .autoFriction] i ∨ i = .tickHf ∨ i = .estop) ∧
      (t.seg ≠ s.seg → mayRequestAny [.startMove, .moveEnd] i ∨ i = .tickHf ∨ i = .estop) ∧
      (t.q ≠ s.q → mayRequestAny [.moveQueueAdd, .startMove, .moveEnd, .autoFriction] i ∨ i = .tickHf ∨ i = .estop) ∧
      (t.ax ≠ s.ax → mayRequestAny [.moveQueueAdd, .startMove, .moveEnd] i ∨ i = .tickHf ∨ (∃ raw, i = .tickLf raw) ∨
        i = .estop) ∧
      (t.pin ≠ s.pin → mayRequestAny [.startMove, .moveEnd] i ∨ i = .tickHf ∨ i = .estop) ∧
      (t.ctl.safe ≠ s.ctl.safe → i = .setSafe0 ∨ i = .setSafe1) ∧
      (t.ctl.microsteps ≠ s.ctl.microsteps → mayRequest .microsteps i) ∧
      (t.ctl.frictionEn ≠ s.ctl.frictionEn → mayRequest .autoFriction i) ∧
      (t.ctl.master ≠ s.ctl.master → ∃ raw, i = .tickLf raw) ∧
      (∀ a, (t.enc.get a).cum ≠ (s.enc.get a).cum ∨ (t.enc.get a).lastRaw ≠ (s.enc.get a).lastRaw →
        ∃ raw, i = .tickLf raw) ∧
      (∀ a, (t.enc.get a).origin ≠ (s.enc.get a).origin ∨ (t.enc.get a).base ≠ (s.enc.get a).base →
        mayRequest .setOrigin i) ∧
      (t.rt ≠ s.rt → (∃ b, i = .rxByte b) ∨ ∃ b, i = .rxTransfer b) ∧
      (t.rf ≠ s.rf → mayRespond i ∨ (∃ c, i = .fifoPop c) ∨ (∃ f, i = .fifoPushExt f) ∨ i = .loadPending) ∧
      (t.spi.tx ≠ s.spi.tx → ∃ st, i = .prime st) ∧
      (t.spi.pending ≠ s.spi.pending → i = .loadPending ∨ ∃ st, i = .prime st) ∧
      (t.cnt.routerOvf ≠ s.cnt.routerOvf ∨ t.cnt.unhandled ≠ s.cnt.unhandled →
        (∃ b, i = .rxByte b) ∨ ∃ b, i = .rxTransfer b) ∧
      (t.cnt.poll ≠ s.cnt.poll → ∃ b, i = .rxTransfer b) ∧
      (t.cnt.frameDrop ≠ s.cnt.frameDrop → mayRequestAny ReqType.all i ∨ ∃ r f, i = Instr.ofResponse r f) ∧
      (t.cnt.respDrop ≠ s.cnt.respDrop → mayRespond i) ∧
      t.free = s.free)

/-- R37: every operation but RESET appends events to the trace, and the pins are what those events leave. -/
def Obligations.PinsFollowEvents : Prop :=
  ∀ (i : Instr) (s t : State), i ≠ .reset → exec i s = .next t →
    ∃ es, t.trace = s.trace ++ es ∧ replay es s.pin = t.pin

/-- R320, R322: the codes of results, and which errors reach the port: only FIFO_POP and FIFO_PUSH_EXT return one. -/
def Obligations.ErrorsThatReachThePort : Prop :=
  (∀ v, resultCode (.ok v) = 0) ∧ resultCode (.err .invalidArgument) = 1 ∧ resultCode (.err .frameError) = 2 ∧
  resultCode (.err .rangeError) = 3 ∧ resultCode (.err .allocationError) = 4 ∧
  ∀ (i : Instr) (s t : State) (k : ErrorKind), exec i s = .next t → t.result = .err k →
    (∃ c, i = .fifoPop c ∧ k = .rangeError) ∨
    (∃ f, i = .fifoPushExt f ∧ (k = .invalidArgument ∨ k = .allocationError))
end

