-- ==== Sys2Proof/Laws/State.lean ====
section
/-! SUPPORT. What each named update of State does to each field: one lemma per field per update, true by `rfl`; and the
laws of `PerAxis`. -/

namespace Sys2Proof

@[simp] theorem PerAxis.get_set_same {α : Type} (p : PerAxis α) (i : Axis) (v : α) : (p.set i v).get i = v := by
  cases i <;> rfl
theorem PerAxis.get_set_ne {α : Type} (p : PerAxis α) {i j : Axis} (v : α) (h : j ≠ i) :
    (p.set i v).get j = p.get j := by
  cases i <;> cases j <;> first | rfl | exact absurd rfl h
theorem PerAxis.get_set {α : Type} (p : PerAxis α) (i j : Axis) (v : α) :
    (p.set i v).get j = if j = i then v else p.get j := by
  cases i <;> cases j <;> rfl
@[simp] theorem PerAxis.get_of {α : Type} (f : Axis → α) (i : Axis) : (PerAxis.of f).get i = f i := by
  cases i <;> rfl
@[simp] theorem PerAxis.get_same {α : Type} (v : α) (i : Axis) : (PerAxis.same v).get i = v := by
  cases i <;> rfl
theorem PerAxis.ext_get {α : Type} {p q : PerAxis α} (h : ∀ i, p.get i = q.get i) : p = q := by
  cases p; cases q
  have hx := h .x; have hy := h .y; have hz := h .z
  simp only [PerAxis.get] at hx hy hz
  subst hx hy hz; rfl
@[simp] theorem PerAxis.set_get {α : Type} (p : PerAxis α) (i : Axis) : p.set i (p.get i) = p := by
  cases i <;> rfl
@[simp] theorem PerAxis.set_set {α : Type} (p : PerAxis α) (i : Axis) (v w : α) : (p.set i v).set i w = p.set i w := by
  cases i <;> rfl

namespace Machine

/-! ### State.ok -/

@[simp] theorem State.ok_cfg (v : OutVal) (s : State) : (s.ok v).cfg = s.cfg := rfl
@[simp] theorem State.ok_fsm (v : OutVal) (s : State) : (s.ok v).fsm = s.fsm := rfl
@[simp] theorem State.ok_seg (v : OutVal) (s : State) : (s.ok v).seg = s.seg := rfl
@[simp] theorem State.ok_q (v : OutVal) (s : State) : (s.ok v).q = s.q := rfl
@[simp] theorem State.ok_ax (v : OutVal) (s : State) : (s.ok v).ax = s.ax := rfl
@[simp] theorem State.ok_pin (v : OutVal) (s : State) : (s.ok v).pin = s.pin := rfl
@[simp] theorem State.ok_enc (v : OutVal) (s : State) : (s.ok v).enc = s.enc := rfl
@[simp] theorem State.ok_ctl (v : OutVal) (s : State) : (s.ok v).ctl = s.ctl := rfl
@[simp] theorem State.ok_rt (v : OutVal) (s : State) : (s.ok v).rt = s.rt := rfl
@[simp] theorem State.ok_rf (v : OutVal) (s : State) : (s.ok v).rf = s.rf := rfl
@[simp] theorem State.ok_spi (v : OutVal) (s : State) : (s.ok v).spi = s.spi := rfl
@[simp] theorem State.ok_cnt (v : OutVal) (s : State) : (s.ok v).cnt = s.cnt := rfl
@[simp] theorem State.ok_port (v : OutVal) (s : State) : (s.ok v).port = s.port := rfl
@[simp] theorem State.ok_result (v : OutVal) (s : State) : (s.ok v).result = .ok v := rfl
@[simp] theorem State.ok_trace (v : OutVal) (s : State) : (s.ok v).trace = s.trace := rfl
@[simp] theorem State.ok_free (v : OutVal) (s : State) : (s.ok v).free = s.free := rfl

/-! ### State.raise -/

@[simp] theorem State.raise_cfg (k : ErrorKind) (s : State) : (s.raise k).cfg = s.cfg := rfl
@[simp] theorem State.raise_fsm (k : ErrorKind) (s : State) : (s.raise k).fsm = s.fsm := rfl
@[simp] theorem State.raise_seg (k : ErrorKind) (s : State) : (s.raise k).seg = s.seg := rfl
@[simp] theorem State.raise_q (k : ErrorKind) (s : State) : (s.raise k).q = s.q := rfl
@[simp] theorem State.raise_ax (k : ErrorKind) (s : State) : (s.raise k).ax = s.ax := rfl
@[simp] theorem State.raise_pin (k : ErrorKind) (s : State) : (s.raise k).pin = s.pin := rfl
@[simp] theorem State.raise_enc (k : ErrorKind) (s : State) : (s.raise k).enc = s.enc := rfl
@[simp] theorem State.raise_ctl (k : ErrorKind) (s : State) : (s.raise k).ctl = s.ctl := rfl
@[simp] theorem State.raise_rt (k : ErrorKind) (s : State) : (s.raise k).rt = s.rt := rfl
@[simp] theorem State.raise_rf (k : ErrorKind) (s : State) : (s.raise k).rf = s.rf := rfl
@[simp] theorem State.raise_spi (k : ErrorKind) (s : State) : (s.raise k).spi = s.spi := rfl
@[simp] theorem State.raise_cnt (k : ErrorKind) (s : State) : (s.raise k).cnt = s.cnt := rfl
@[simp] theorem State.raise_port (k : ErrorKind) (s : State) : (s.raise k).port = s.port := rfl
@[simp] theorem State.raise_result (k : ErrorKind) (s : State) : (s.raise k).result = .err k := rfl
@[simp] theorem State.raise_trace (k : ErrorKind) (s : State) : (s.raise k).trace = s.trace := rfl
@[simp] theorem State.raise_free (k : ErrorKind) (s : State) : (s.raise k).free = s.free := rfl

/-! ### State.emit -/

@[simp] theorem State.emit_cfg (e : Event) (s : State) : (s.emit e).cfg = s.cfg := rfl
@[simp] theorem State.emit_fsm (e : Event) (s : State) : (s.emit e).fsm = s.fsm := rfl
@[simp] theorem State.emit_seg (e : Event) (s : State) : (s.emit e).seg = s.seg := rfl
@[simp] theorem State.emit_q (e : Event) (s : State) : (s.emit e).q = s.q := rfl
@[simp] theorem State.emit_ax (e : Event) (s : State) : (s.emit e).ax = s.ax := rfl
@[simp] theorem State.emit_pin (e : Event) (s : State) : (s.emit e).pin = s.pin := rfl
@[simp] theorem State.emit_enc (e : Event) (s : State) : (s.emit e).enc = s.enc := rfl
@[simp] theorem State.emit_ctl (e : Event) (s : State) : (s.emit e).ctl = s.ctl := rfl
@[simp] theorem State.emit_rt (e : Event) (s : State) : (s.emit e).rt = s.rt := rfl
@[simp] theorem State.emit_rf (e : Event) (s : State) : (s.emit e).rf = s.rf := rfl
@[simp] theorem State.emit_spi (e : Event) (s : State) : (s.emit e).spi = s.spi := rfl
@[simp] theorem State.emit_cnt (e : Event) (s : State) : (s.emit e).cnt = s.cnt := rfl
@[simp] theorem State.emit_port (e : Event) (s : State) : (s.emit e).port = s.port := rfl
@[simp] theorem State.emit_result (e : Event) (s : State) : (s.emit e).result = s.result := rfl
@[simp] theorem State.emit_trace (e : Event) (s : State) : (s.emit e).trace = s.trace ++ [e] := rfl
@[simp] theorem State.emit_free (e : Event) (s : State) : (s.emit e).free = s.free := rfl

/-! ### State.setFsm -/

@[simp] theorem State.setFsm_cfg (f : Fsm) (s : State) : (s.setFsm f).cfg = s.cfg := rfl
@[simp] theorem State.setFsm_fsm (f : Fsm) (s : State) : (s.setFsm f).fsm = f := rfl
@[simp] theorem State.setFsm_seg (f : Fsm) (s : State) : (s.setFsm f).seg = s.seg := rfl
@[simp] theorem State.setFsm_q (f : Fsm) (s : State) : (s.setFsm f).q = s.q := rfl
@[simp] theorem State.setFsm_ax (f : Fsm) (s : State) : (s.setFsm f).ax = s.ax := rfl
@[simp] theorem State.setFsm_pin (f : Fsm) (s : State) : (s.setFsm f).pin = s.pin := rfl
@[simp] theorem State.setFsm_enc (f : Fsm) (s : State) : (s.setFsm f).enc = s.enc := rfl
@[simp] theorem State.setFsm_ctl (f : Fsm) (s : State) : (s.setFsm f).ctl = s.ctl := rfl
@[simp] theorem State.setFsm_rt (f : Fsm) (s : State) : (s.setFsm f).rt = s.rt := rfl
@[simp] theorem State.setFsm_rf (f : Fsm) (s : State) : (s.setFsm f).rf = s.rf := rfl
@[simp] theorem State.setFsm_spi (f : Fsm) (s : State) : (s.setFsm f).spi = s.spi := rfl
@[simp] theorem State.setFsm_cnt (f : Fsm) (s : State) : (s.setFsm f).cnt = s.cnt := rfl
@[simp] theorem State.setFsm_port (f : Fsm) (s : State) : (s.setFsm f).port = s.port := rfl
@[simp] theorem State.setFsm_result (f : Fsm) (s : State) : (s.setFsm f).result = s.result := rfl
@[simp] theorem State.setFsm_trace (f : Fsm) (s : State) : (s.setFsm f).trace = s.trace := rfl
@[simp] theorem State.setFsm_free (f : Fsm) (s : State) : (s.setFsm f).free = s.free := rfl

/-! ### State.setSeg -/

@[simp] theorem State.setSeg_cfg (g : Seg) (s : State) : (s.setSeg g).cfg = s.cfg := rfl
@[simp] theorem State.setSeg_fsm (g : Seg) (s : State) : (s.setSeg g).fsm = s.fsm := rfl
@[simp] theorem State.setSeg_seg (g : Seg) (s : State) : (s.setSeg g).seg = g := rfl
@[simp] theorem State.setSeg_q (g : Seg) (s : State) : (s.setSeg g).q = s.q := rfl
@[simp] theorem State.setSeg_ax (g : Seg) (s : State) : (s.setSeg g).ax = s.ax := rfl
@[simp] theorem State.setSeg_pin (g : Seg) (s : State) : (s.setSeg g).pin = s.pin := rfl
@[simp] theorem State.setSeg_enc (g : Seg) (s : State) : (s.setSeg g).enc = s.enc := rfl
@[simp] theorem State.setSeg_ctl (g : Seg) (s : State) : (s.setSeg g).ctl = s.ctl := rfl
@[simp] theorem State.setSeg_rt (g : Seg) (s : State) : (s.setSeg g).rt = s.rt := rfl
@[simp] theorem State.setSeg_rf (g : Seg) (s : State) : (s.setSeg g).rf = s.rf := rfl
@[simp] theorem State.setSeg_spi (g : Seg) (s : State) : (s.setSeg g).spi = s.spi := rfl
@[simp] theorem State.setSeg_cnt (g : Seg) (s : State) : (s.setSeg g).cnt = s.cnt := rfl
@[simp] theorem State.setSeg_port (g : Seg) (s : State) : (s.setSeg g).port = s.port := rfl
@[simp] theorem State.setSeg_result (g : Seg) (s : State) : (s.setSeg g).result = s.result := rfl
@[simp] theorem State.setSeg_trace (g : Seg) (s : State) : (s.setSeg g).trace = s.trace := rfl
@[simp] theorem State.setSeg_free (g : Seg) (s : State) : (s.setSeg g).free = s.free := rfl

/-! ### State.setQ -/

@[simp] theorem State.setQ_cfg (q : Queue) (s : State) : (s.setQ q).cfg = s.cfg := rfl
@[simp] theorem State.setQ_fsm (q : Queue) (s : State) : (s.setQ q).fsm = s.fsm := rfl
@[simp] theorem State.setQ_seg (q : Queue) (s : State) : (s.setQ q).seg = s.seg := rfl
@[simp] theorem State.setQ_q (q : Queue) (s : State) : (s.setQ q).q = q := rfl
@[simp] theorem State.setQ_ax (q : Queue) (s : State) : (s.setQ q).ax = s.ax := rfl
@[simp] theorem State.setQ_pin (q : Queue) (s : State) : (s.setQ q).pin = s.pin := rfl
@[simp] theorem State.setQ_enc (q : Queue) (s : State) : (s.setQ q).enc = s.enc := rfl
@[simp] theorem State.setQ_ctl (q : Queue) (s : State) : (s.setQ q).ctl = s.ctl := rfl
@[simp] theorem State.setQ_rt (q : Queue) (s : State) : (s.setQ q).rt = s.rt := rfl
@[simp] theorem State.setQ_rf (q : Queue) (s : State) : (s.setQ q).rf = s.rf := rfl
@[simp] theorem State.setQ_spi (q : Queue) (s : State) : (s.setQ q).spi = s.spi := rfl
@[simp] theorem State.setQ_cnt (q : Queue) (s : State) : (s.setQ q).cnt = s.cnt := rfl
@[simp] theorem State.setQ_port (q : Queue) (s : State) : (s.setQ q).port = s.port := rfl
@[simp] theorem State.setQ_result (q : Queue) (s : State) : (s.setQ q).result = s.result := rfl
@[simp] theorem State.setQ_trace (q : Queue) (s : State) : (s.setQ q).trace = s.trace := rfl
@[simp] theorem State.setQ_free (q : Queue) (s : State) : (s.setQ q).free = s.free := rfl

/-! ### State.setAx -/

@[simp] theorem State.setAx_cfg (a : PerAxis AxisState) (s : State) : (s.setAx a).cfg = s.cfg := rfl
@[simp] theorem State.setAx_fsm (a : PerAxis AxisState) (s : State) : (s.setAx a).fsm = s.fsm := rfl
@[simp] theorem State.setAx_seg (a : PerAxis AxisState) (s : State) : (s.setAx a).seg = s.seg := rfl
@[simp] theorem State.setAx_q (a : PerAxis AxisState) (s : State) : (s.setAx a).q = s.q := rfl
@[simp] theorem State.setAx_ax (a : PerAxis AxisState) (s : State) : (s.setAx a).ax = a := rfl
@[simp] theorem State.setAx_pin (a : PerAxis AxisState) (s : State) : (s.setAx a).pin = s.pin := rfl
@[simp] theorem State.setAx_enc (a : PerAxis AxisState) (s : State) : (s.setAx a).enc = s.enc := rfl
@[simp] theorem State.setAx_ctl (a : PerAxis AxisState) (s : State) : (s.setAx a).ctl = s.ctl := rfl
@[simp] theorem State.setAx_rt (a : PerAxis AxisState) (s : State) : (s.setAx a).rt = s.rt := rfl
@[simp] theorem State.setAx_rf (a : PerAxis AxisState) (s : State) : (s.setAx a).rf = s.rf := rfl
@[simp] theorem State.setAx_spi (a : PerAxis AxisState) (s : State) : (s.setAx a).spi = s.spi := rfl
@[simp] theorem State.setAx_cnt (a : PerAxis AxisState) (s : State) : (s.setAx a).cnt = s.cnt := rfl
@[simp] theorem State.setAx_port (a : PerAxis AxisState) (s : State) : (s.setAx a).port = s.port := rfl
@[simp] theorem State.setAx_result (a : PerAxis AxisState) (s : State) : (s.setAx a).result = s.result := rfl
@[simp] theorem State.setAx_trace (a : PerAxis AxisState) (s : State) : (s.setAx a).trace = s.trace := rfl
@[simp] theorem State.setAx_free (a : PerAxis AxisState) (s : State) : (s.setAx a).free = s.free := rfl

/-! ### State.setAxis -/

@[simp] theorem State.setAxis_cfg (i : Axis) (a : AxisState) (s : State) : (s.setAxis i a).cfg = s.cfg := rfl
@[simp] theorem State.setAxis_fsm (i : Axis) (a : AxisState) (s : State) : (s.setAxis i a).fsm = s.fsm := rfl
@[simp] theorem State.setAxis_seg (i : Axis) (a : AxisState) (s : State) : (s.setAxis i a).seg = s.seg := rfl
@[simp] theorem State.setAxis_q (i : Axis) (a : AxisState) (s : State) : (s.setAxis i a).q = s.q := rfl
@[simp] theorem State.setAxis_ax (i : Axis) (a : AxisState) (s : State) : (s.setAxis i a).ax = s.ax.set i a := rfl
@[simp] theorem State.setAxis_pin (i : Axis) (a : AxisState) (s : State) : (s.setAxis i a).pin = s.pin := rfl
@[simp] theorem State.setAxis_enc (i : Axis) (a : AxisState) (s : State) : (s.setAxis i a).enc = s.enc := rfl
@[simp] theorem State.setAxis_ctl (i : Axis) (a : AxisState) (s : State) : (s.setAxis i a).ctl = s.ctl := rfl
@[simp] theorem State.setAxis_rt (i : Axis) (a : AxisState) (s : State) : (s.setAxis i a).rt = s.rt := rfl
@[simp] theorem State.setAxis_rf (i : Axis) (a : AxisState) (s : State) : (s.setAxis i a).rf = s.rf := rfl
@[simp] theorem State.setAxis_spi (i : Axis) (a : AxisState) (s : State) : (s.setAxis i a).spi = s.spi := rfl
@[simp] theorem State.setAxis_cnt (i : Axis) (a : AxisState) (s : State) : (s.setAxis i a).cnt = s.cnt := rfl
@[simp] theorem State.setAxis_port (i : Axis) (a : AxisState) (s : State) : (s.setAxis i a).port = s.port := rfl
@[simp] theorem State.setAxis_result (i : Axis) (a : AxisState) (s : State) : (s.setAxis i a).result = s.result := rfl
@[simp] theorem State.setAxis_trace (i : Axis) (a : AxisState) (s : State) : (s.setAxis i a).trace = s.trace := rfl
@[simp] theorem State.setAxis_free (i : Axis) (a : AxisState) (s : State) : (s.setAxis i a).free = s.free := rfl

/-! ### State.setPin -/

@[simp] theorem State.setPin_cfg (i : Axis) (p : Pin) (s : State) : (s.setPin i p).cfg = s.cfg := rfl
@[simp] theorem State.setPin_fsm (i : Axis) (p : Pin) (s : State) : (s.setPin i p).fsm = s.fsm := rfl
@[simp] theorem State.setPin_seg (i : Axis) (p : Pin) (s : State) : (s.setPin i p).seg = s.seg := rfl
@[simp] theorem State.setPin_q (i : Axis) (p : Pin) (s : State) : (s.setPin i p).q = s.q := rfl
@[simp] theorem State.setPin_ax (i : Axis) (p : Pin) (s : State) : (s.setPin i p).ax = s.ax := rfl
@[simp] theorem State.setPin_pin (i : Axis) (p : Pin) (s : State) : (s.setPin i p).pin = s.pin.set i p := rfl
@[simp] theorem State.setPin_enc (i : Axis) (p : Pin) (s : State) : (s.setPin i p).enc = s.enc := rfl
@[simp] theorem State.setPin_ctl (i : Axis) (p : Pin) (s : State) : (s.setPin i p).ctl = s.ctl := rfl
@[simp] theorem State.setPin_rt (i : Axis) (p : Pin) (s : State) : (s.setPin i p).rt = s.rt := rfl
@[simp] theorem State.setPin_rf (i : Axis) (p : Pin) (s : State) : (s.setPin i p).rf = s.rf := rfl
@[simp] theorem State.setPin_spi (i : Axis) (p : Pin) (s : State) : (s.setPin i p).spi = s.spi := rfl
@[simp] theorem State.setPin_cnt (i : Axis) (p : Pin) (s : State) : (s.setPin i p).cnt = s.cnt := rfl
@[simp] theorem State.setPin_port (i : Axis) (p : Pin) (s : State) : (s.setPin i p).port = s.port := rfl
@[simp] theorem State.setPin_result (i : Axis) (p : Pin) (s : State) : (s.setPin i p).result = s.result := rfl
@[simp] theorem State.setPin_trace (i : Axis) (p : Pin) (s : State) : (s.setPin i p).trace = s.trace := rfl
@[simp] theorem State.setPin_free (i : Axis) (p : Pin) (s : State) : (s.setPin i p).free = s.free := rfl

/-! ### State.setEnc -/

@[simp] theorem State.setEnc_cfg (i : Axis) (e : Enc) (s : State) : (s.setEnc i e).cfg = s.cfg := rfl
@[simp] theorem State.setEnc_fsm (i : Axis) (e : Enc) (s : State) : (s.setEnc i e).fsm = s.fsm := rfl
@[simp] theorem State.setEnc_seg (i : Axis) (e : Enc) (s : State) : (s.setEnc i e).seg = s.seg := rfl
@[simp] theorem State.setEnc_q (i : Axis) (e : Enc) (s : State) : (s.setEnc i e).q = s.q := rfl
@[simp] theorem State.setEnc_ax (i : Axis) (e : Enc) (s : State) : (s.setEnc i e).ax = s.ax := rfl
@[simp] theorem State.setEnc_pin (i : Axis) (e : Enc) (s : State) : (s.setEnc i e).pin = s.pin := rfl
@[simp] theorem State.setEnc_enc (i : Axis) (e : Enc) (s : State) : (s.setEnc i e).enc = s.enc.set i e := rfl
@[simp] theorem State.setEnc_ctl (i : Axis) (e : Enc) (s : State) : (s.setEnc i e).ctl = s.ctl := rfl
@[simp] theorem State.setEnc_rt (i : Axis) (e : Enc) (s : State) : (s.setEnc i e).rt = s.rt := rfl
@[simp] theorem State.setEnc_rf (i : Axis) (e : Enc) (s : State) : (s.setEnc i e).rf = s.rf := rfl
@[simp] theorem State.setEnc_spi (i : Axis) (e : Enc) (s : State) : (s.setEnc i e).spi = s.spi := rfl
@[simp] theorem State.setEnc_cnt (i : Axis) (e : Enc) (s : State) : (s.setEnc i e).cnt = s.cnt := rfl
@[simp] theorem State.setEnc_port (i : Axis) (e : Enc) (s : State) : (s.setEnc i e).port = s.port := rfl
@[simp] theorem State.setEnc_result (i : Axis) (e : Enc) (s : State) : (s.setEnc i e).result = s.result := rfl
@[simp] theorem State.setEnc_trace (i : Axis) (e : Enc) (s : State) : (s.setEnc i e).trace = s.trace := rfl
@[simp] theorem State.setEnc_free (i : Axis) (e : Enc) (s : State) : (s.setEnc i e).free = s.free := rfl

/-! ### State.setCtl -/

@[simp] theorem State.setCtl_cfg (c : Ctl) (s : State) : (s.setCtl c).cfg = s.cfg := rfl
@[simp] theorem State.setCtl_fsm (c : Ctl) (s : State) : (s.setCtl c).fsm = s.fsm := rfl
@[simp] theorem State.setCtl_seg (c : Ctl) (s : State) : (s.setCtl c).seg = s.seg := rfl
@[simp] theorem State.setCtl_q (c : Ctl) (s : State) : (s.setCtl c).q = s.q := rfl
@[simp] theorem State.setCtl_ax (c : Ctl) (s : State) : (s.setCtl c).ax = s.ax := rfl
@[simp] theorem State.setCtl_pin (c : Ctl) (s : State) : (s.setCtl c).pin = s.pin := rfl
@[simp] theorem State.setCtl_enc (c : Ctl) (s : State) : (s.setCtl c).enc = s.enc := rfl
@[simp] theorem State.setCtl_ctl (c : Ctl) (s : State) : (s.setCtl c).ctl = c := rfl
@[simp] theorem State.setCtl_rt (c : Ctl) (s : State) : (s.setCtl c).rt = s.rt := rfl
@[simp] theorem State.setCtl_rf (c : Ctl) (s : State) : (s.setCtl c).rf = s.rf := rfl
@[simp] theorem State.setCtl_spi (c : Ctl) (s : State) : (s.setCtl c).spi = s.spi := rfl
@[simp] theorem State.setCtl_cnt (c : Ctl) (s : State) : (s.setCtl c).cnt = s.cnt := rfl
@[simp] theorem State.setCtl_port (c : Ctl) (s : State) : (s.setCtl c).port = s.port := rfl
@[simp] theorem State.setCtl_result (c : Ctl) (s : State) : (s.setCtl c).result = s.result := rfl
@[simp] theorem State.setCtl_trace (c : Ctl) (s : State) : (s.setCtl c).trace = s.trace := rfl
@[simp] theorem State.setCtl_free (c : Ctl) (s : State) : (s.setCtl c).free = s.free := rfl

/-! ### State.setRt -/

@[simp] theorem State.setRt_cfg (r : Router) (s : State) : (s.setRt r).cfg = s.cfg := rfl
@[simp] theorem State.setRt_fsm (r : Router) (s : State) : (s.setRt r).fsm = s.fsm := rfl
@[simp] theorem State.setRt_seg (r : Router) (s : State) : (s.setRt r).seg = s.seg := rfl
@[simp] theorem State.setRt_q (r : Router) (s : State) : (s.setRt r).q = s.q := rfl
@[simp] theorem State.setRt_ax (r : Router) (s : State) : (s.setRt r).ax = s.ax := rfl
@[simp] theorem State.setRt_pin (r : Router) (s : State) : (s.setRt r).pin = s.pin := rfl
@[simp] theorem State.setRt_enc (r : Router) (s : State) : (s.setRt r).enc = s.enc := rfl
@[simp] theorem State.setRt_ctl (r : Router) (s : State) : (s.setRt r).ctl = s.ctl := rfl
@[simp] theorem State.setRt_rt (r : Router) (s : State) : (s.setRt r).rt = r := rfl
@[simp] theorem State.setRt_rf (r : Router) (s : State) : (s.setRt r).rf = s.rf := rfl
@[simp] theorem State.setRt_spi (r : Router) (s : State) : (s.setRt r).spi = s.spi := rfl
@[simp] theorem State.setRt_cnt (r : Router) (s : State) : (s.setRt r).cnt = s.cnt := rfl
@[simp] theorem State.setRt_port (r : Router) (s : State) : (s.setRt r).port = s.port := rfl
@[simp] theorem State.setRt_result (r : Router) (s : State) : (s.setRt r).result = s.result := rfl
@[simp] theorem State.setRt_trace (r : Router) (s : State) : (s.setRt r).trace = s.trace := rfl
@[simp] theorem State.setRt_free (r : Router) (s : State) : (s.setRt r).free = s.free := rfl

/-! ### State.setRf -/

@[simp] theorem State.setRf_cfg (r : RespFifo) (s : State) : (s.setRf r).cfg = s.cfg := rfl
@[simp] theorem State.setRf_fsm (r : RespFifo) (s : State) : (s.setRf r).fsm = s.fsm := rfl
@[simp] theorem State.setRf_seg (r : RespFifo) (s : State) : (s.setRf r).seg = s.seg := rfl
@[simp] theorem State.setRf_q (r : RespFifo) (s : State) : (s.setRf r).q = s.q := rfl
@[simp] theorem State.setRf_ax (r : RespFifo) (s : State) : (s.setRf r).ax = s.ax := rfl
@[simp] theorem State.setRf_pin (r : RespFifo) (s : State) : (s.setRf r).pin = s.pin := rfl
@[simp] theorem State.setRf_enc (r : RespFifo) (s : State) : (s.setRf r).enc = s.enc := rfl
@[simp] theorem State.setRf_ctl (r : RespFifo) (s : State) : (s.setRf r).ctl = s.ctl := rfl
@[simp] theorem State.setRf_rt (r : RespFifo) (s : State) : (s.setRf r).rt = s.rt := rfl
@[simp] theorem State.setRf_rf (r : RespFifo) (s : State) : (s.setRf r).rf = r := rfl
@[simp] theorem State.setRf_spi (r : RespFifo) (s : State) : (s.setRf r).spi = s.spi := rfl
@[simp] theorem State.setRf_cnt (r : RespFifo) (s : State) : (s.setRf r).cnt = s.cnt := rfl
@[simp] theorem State.setRf_port (r : RespFifo) (s : State) : (s.setRf r).port = s.port := rfl
@[simp] theorem State.setRf_result (r : RespFifo) (s : State) : (s.setRf r).result = s.result := rfl
@[simp] theorem State.setRf_trace (r : RespFifo) (s : State) : (s.setRf r).trace = s.trace := rfl
@[simp] theorem State.setRf_free (r : RespFifo) (s : State) : (s.setRf r).free = s.free := rfl

/-! ### State.setSpi -/

@[simp] theorem State.setSpi_cfg (p : Spi) (s : State) : (s.setSpi p).cfg = s.cfg := rfl
@[simp] theorem State.setSpi_fsm (p : Spi) (s : State) : (s.setSpi p).fsm = s.fsm := rfl
@[simp] theorem State.setSpi_seg (p : Spi) (s : State) : (s.setSpi p).seg = s.seg := rfl
@[simp] theorem State.setSpi_q (p : Spi) (s : State) : (s.setSpi p).q = s.q := rfl
@[simp] theorem State.setSpi_ax (p : Spi) (s : State) : (s.setSpi p).ax = s.ax := rfl
@[simp] theorem State.setSpi_pin (p : Spi) (s : State) : (s.setSpi p).pin = s.pin := rfl
@[simp] theorem State.setSpi_enc (p : Spi) (s : State) : (s.setSpi p).enc = s.enc := rfl
@[simp] theorem State.setSpi_ctl (p : Spi) (s : State) : (s.setSpi p).ctl = s.ctl := rfl
@[simp] theorem State.setSpi_rt (p : Spi) (s : State) : (s.setSpi p).rt = s.rt := rfl
@[simp] theorem State.setSpi_rf (p : Spi) (s : State) : (s.setSpi p).rf = s.rf := rfl
@[simp] theorem State.setSpi_spi (p : Spi) (s : State) : (s.setSpi p).spi = p := rfl
@[simp] theorem State.setSpi_cnt (p : Spi) (s : State) : (s.setSpi p).cnt = s.cnt := rfl
@[simp] theorem State.setSpi_port (p : Spi) (s : State) : (s.setSpi p).port = s.port := rfl
@[simp] theorem State.setSpi_result (p : Spi) (s : State) : (s.setSpi p).result = s.result := rfl
@[simp] theorem State.setSpi_trace (p : Spi) (s : State) : (s.setSpi p).trace = s.trace := rfl
@[simp] theorem State.setSpi_free (p : Spi) (s : State) : (s.setSpi p).free = s.free := rfl

/-! ### State.setCnt -/

@[simp] theorem State.setCnt_cfg (c : Counters) (s : State) : (s.setCnt c).cfg = s.cfg := rfl
@[simp] theorem State.setCnt_fsm (c : Counters) (s : State) : (s.setCnt c).fsm = s.fsm := rfl
@[simp] theorem State.setCnt_seg (c : Counters) (s : State) : (s.setCnt c).seg = s.seg := rfl
@[simp] theorem State.setCnt_q (c : Counters) (s : State) : (s.setCnt c).q = s.q := rfl
@[simp] theorem State.setCnt_ax (c : Counters) (s : State) : (s.setCnt c).ax = s.ax := rfl
@[simp] theorem State.setCnt_pin (c : Counters) (s : State) : (s.setCnt c).pin = s.pin := rfl
@[simp] theorem State.setCnt_enc (c : Counters) (s : State) : (s.setCnt c).enc = s.enc := rfl
@[simp] theorem State.setCnt_ctl (c : Counters) (s : State) : (s.setCnt c).ctl = s.ctl := rfl
@[simp] theorem State.setCnt_rt (c : Counters) (s : State) : (s.setCnt c).rt = s.rt := rfl
@[simp] theorem State.setCnt_rf (c : Counters) (s : State) : (s.setCnt c).rf = s.rf := rfl
@[simp] theorem State.setCnt_spi (c : Counters) (s : State) : (s.setCnt c).spi = s.spi := rfl
@[simp] theorem State.setCnt_cnt (c : Counters) (s : State) : (s.setCnt c).cnt = c := rfl
@[simp] theorem State.setCnt_port (c : Counters) (s : State) : (s.setCnt c).port = s.port := rfl
@[simp] theorem State.setCnt_result (c : Counters) (s : State) : (s.setCnt c).result = s.result := rfl
@[simp] theorem State.setCnt_trace (c : Counters) (s : State) : (s.setCnt c).trace = s.trace := rfl
@[simp] theorem State.setCnt_free (c : Counters) (s : State) : (s.setCnt c).free = s.free := rfl

/-! ### State.countOvf -/

@[simp] theorem State.countOvf_cfg (s : State) : (s.countOvf).cfg = s.cfg := rfl
@[simp] theorem State.countOvf_fsm (s : State) : (s.countOvf).fsm = s.fsm := rfl
@[simp] theorem State.countOvf_seg (s : State) : (s.countOvf).seg = s.seg := rfl
@[simp] theorem State.countOvf_q (s : State) : (s.countOvf).q = s.q := rfl
@[simp] theorem State.countOvf_ax (s : State) : (s.countOvf).ax = s.ax := rfl
@[simp] theorem State.countOvf_pin (s : State) : (s.countOvf).pin = s.pin := rfl
@[simp] theorem State.countOvf_enc (s : State) : (s.countOvf).enc = s.enc := rfl
@[simp] theorem State.countOvf_ctl (s : State) : (s.countOvf).ctl = s.ctl := rfl
@[simp] theorem State.countOvf_rt (s : State) : (s.countOvf).rt = s.rt := rfl
@[simp] theorem State.countOvf_rf (s : State) : (s.countOvf).rf = s.rf := rfl
@[simp] theorem State.countOvf_spi (s : State) : (s.countOvf).spi = s.spi := rfl
@[simp] theorem State.countOvf_cnt (s : State) : (s.countOvf).cnt = { s.cnt with routerOvf := s.cnt.routerOvf + 1#32 } := rfl
@[simp] theorem State.countOvf_port (s : State) : (s.countOvf).port = s.port := rfl
@[simp] theorem State.countOvf_result (s : State) : (s.countOvf).result = s.result := rfl
@[simp] theorem State.countOvf_trace (s : State) : (s.countOvf).trace = s.trace := rfl
@[simp] theorem State.countOvf_free (s : State) : (s.countOvf).free = s.free := rfl

/-! ### State.countFrameDrop -/

@[simp] theorem State.countFrameDrop_cfg (s : State) : (s.countFrameDrop).cfg = s.cfg := rfl
@[simp] theorem State.countFrameDrop_fsm (s : State) : (s.countFrameDrop).fsm = s.fsm := rfl
@[simp] theorem State.countFrameDrop_seg (s : State) : (s.countFrameDrop).seg = s.seg := rfl
@[simp] theorem State.countFrameDrop_q (s : State) : (s.countFrameDrop).q = s.q := rfl
@[simp] theorem State.countFrameDrop_ax (s : State) : (s.countFrameDrop).ax = s.ax := rfl
@[simp] theorem State.countFrameDrop_pin (s : State) : (s.countFrameDrop).pin = s.pin := rfl
@[simp] theorem State.countFrameDrop_enc (s : State) : (s.countFrameDrop).enc = s.enc := rfl
@[simp] theorem State.countFrameDrop_ctl (s : State) : (s.countFrameDrop).ctl = s.ctl := rfl
@[simp] theorem State.countFrameDrop_rt (s : State) : (s.countFrameDrop).rt = s.rt := rfl
@[simp] theorem State.countFrameDrop_rf (s : State) : (s.countFrameDrop).rf = s.rf := rfl
@[simp] theorem State.countFrameDrop_spi (s : State) : (s.countFrameDrop).spi = s.spi := rfl
@[simp] theorem State.countFrameDrop_cnt (s : State) : (s.countFrameDrop).cnt = { s.cnt with frameDrop := s.cnt.frameDrop + 1#32 } := rfl
@[simp] theorem State.countFrameDrop_port (s : State) : (s.countFrameDrop).port = s.port := rfl
@[simp] theorem State.countFrameDrop_result (s : State) : (s.countFrameDrop).result = s.result := rfl
@[simp] theorem State.countFrameDrop_trace (s : State) : (s.countFrameDrop).trace = s.trace := rfl
@[simp] theorem State.countFrameDrop_free (s : State) : (s.countFrameDrop).free = s.free := rfl

/-! ### State.countUnhandled -/

@[simp] theorem State.countUnhandled_cfg (s : State) : (s.countUnhandled).cfg = s.cfg := rfl
@[simp] theorem State.countUnhandled_fsm (s : State) : (s.countUnhandled).fsm = s.fsm := rfl
@[simp] theorem State.countUnhandled_seg (s : State) : (s.countUnhandled).seg = s.seg := rfl
@[simp] theorem State.countUnhandled_q (s : State) : (s.countUnhandled).q = s.q := rfl
@[simp] theorem State.countUnhandled_ax (s : State) : (s.countUnhandled).ax = s.ax := rfl
@[simp] theorem State.countUnhandled_pin (s : State) : (s.countUnhandled).pin = s.pin := rfl
@[simp] theorem State.countUnhandled_enc (s : State) : (s.countUnhandled).enc = s.enc := rfl
@[simp] theorem State.countUnhandled_ctl (s : State) : (s.countUnhandled).ctl = s.ctl := rfl
@[simp] theorem State.countUnhandled_rt (s : State) : (s.countUnhandled).rt = s.rt := rfl
@[simp] theorem State.countUnhandled_rf (s : State) : (s.countUnhandled).rf = s.rf := rfl
@[simp] theorem State.countUnhandled_spi (s : State) : (s.countUnhandled).spi = s.spi := rfl
@[simp] theorem State.countUnhandled_cnt (s : State) : (s.countUnhandled).cnt = { s.cnt with unhandled := s.cnt.unhandled + 1#32 } := rfl
@[simp] theorem State.countUnhandled_port (s : State) : (s.countUnhandled).port = s.port := rfl
@[simp] theorem State.countUnhandled_result (s : State) : (s.countUnhandled).result = s.result := rfl
@[simp] theorem State.countUnhandled_trace (s : State) : (s.countUnhandled).trace = s.trace := rfl
@[simp] theorem State.countUnhandled_free (s : State) : (s.countUnhandled).free = s.free := rfl

/-! ### State.countRespDrop -/

@[simp] theorem State.countRespDrop_cfg (s : State) : (s.countRespDrop).cfg = s.cfg := rfl
@[simp] theorem State.countRespDrop_fsm (s : State) : (s.countRespDrop).fsm = s.fsm := rfl
@[simp] theorem State.countRespDrop_seg (s : State) : (s.countRespDrop).seg = s.seg := rfl
@[simp] theorem State.countRespDrop_q (s : State) : (s.countRespDrop).q = s.q := rfl
@[simp] theorem State.countRespDrop_ax (s : State) : (s.countRespDrop).ax = s.ax := rfl
@[simp] theorem State.countRespDrop_pin (s : State) : (s.countRespDrop).pin = s.pin := rfl
@[simp] theorem State.countRespDrop_enc (s : State) : (s.countRespDrop).enc = s.enc := rfl
@[simp] theorem State.countRespDrop_ctl (s : State) : (s.countRespDrop).ctl = s.ctl := rfl
@[simp] theorem State.countRespDrop_rt (s : State) : (s.countRespDrop).rt = s.rt := rfl
@[simp] theorem State.countRespDrop_rf (s : State) : (s.countRespDrop).rf = s.rf := rfl
@[simp] theorem State.countRespDrop_spi (s : State) : (s.countRespDrop).spi = s.spi := rfl
@[simp] theorem State.countRespDrop_cnt (s : State) : (s.countRespDrop).cnt = { s.cnt with respDrop := s.cnt.respDrop + 1#32 } := rfl
@[simp] theorem State.countRespDrop_port (s : State) : (s.countRespDrop).port = s.port := rfl
@[simp] theorem State.countRespDrop_result (s : State) : (s.countRespDrop).result = s.result := rfl
@[simp] theorem State.countRespDrop_trace (s : State) : (s.countRespDrop).trace = s.trace := rfl
@[simp] theorem State.countRespDrop_free (s : State) : (s.countRespDrop).free = s.free := rfl

/-! ### State.countPoll -/

@[simp] theorem State.countPoll_cfg (s : State) : (s.countPoll).cfg = s.cfg := rfl
@[simp] theorem State.countPoll_fsm (s : State) : (s.countPoll).fsm = s.fsm := rfl
@[simp] theorem State.countPoll_seg (s : State) : (s.countPoll).seg = s.seg := rfl
@[simp] theorem State.countPoll_q (s : State) : (s.countPoll).q = s.q := rfl
@[simp] theorem State.countPoll_ax (s : State) : (s.countPoll).ax = s.ax := rfl
@[simp] theorem State.countPoll_pin (s : State) : (s.countPoll).pin = s.pin := rfl
@[simp] theorem State.countPoll_enc (s : State) : (s.countPoll).enc = s.enc := rfl
@[simp] theorem State.countPoll_ctl (s : State) : (s.countPoll).ctl = s.ctl := rfl
@[simp] theorem State.countPoll_rt (s : State) : (s.countPoll).rt = s.rt := rfl
@[simp] theorem State.countPoll_rf (s : State) : (s.countPoll).rf = s.rf := rfl
@[simp] theorem State.countPoll_spi (s : State) : (s.countPoll).spi = s.spi := rfl
@[simp] theorem State.countPoll_cnt (s : State) : (s.countPoll).cnt = { s.cnt with poll := s.cnt.poll + 1#32 } := rfl
@[simp] theorem State.countPoll_port (s : State) : (s.countPoll).port = s.port := rfl
@[simp] theorem State.countPoll_result (s : State) : (s.countPoll).result = s.result := rfl
@[simp] theorem State.countPoll_trace (s : State) : (s.countPoll).trace = s.trace := rfl
@[simp] theorem State.countPoll_free (s : State) : (s.countPoll).free = s.free := rfl

/-! ### State.clearQueue -/

@[simp] theorem State.clearQueue_cfg (s : State) : (s.clearQueue).cfg = s.cfg := rfl
@[simp] theorem State.clearQueue_fsm (s : State) : (s.clearQueue).fsm = s.fsm := rfl
@[simp] theorem State.clearQueue_seg (s : State) : (s.clearQueue).seg = s.seg := rfl
@[simp] theorem State.clearQueue_q (s : State) : (s.clearQueue).q = { s.q with head := 0#16, tail := 0#16, count := 0#16, qsum := .same 0#64 } := rfl
@[simp] theorem State.clearQueue_ax (s : State) : (s.clearQueue).ax = s.ax := rfl
@[simp] theorem State.clearQueue_pin (s : State) : (s.clearQueue).pin = s.pin := rfl
@[simp] theorem State.clearQueue_enc (s : State) : (s.clearQueue).enc = s.enc := rfl
@[simp] theorem State.clearQueue_ctl (s : State) : (s.clearQueue).ctl = s.ctl := rfl
@[simp] theorem State.clearQueue_rt (s : State) : (s.clearQueue).rt = s.rt := rfl
@[simp] theorem State.clearQueue_rf (s : State) : (s.clearQueue).rf = s.rf := rfl
@[simp] theorem State.clearQueue_spi (s : State) : (s.clearQueue).spi = s.spi := rfl
@[simp] theorem State.clearQueue_cnt (s : State) : (s.clearQueue).cnt = s.cnt := rfl
@[simp] theorem State.clearQueue_port (s : State) : (s.clearQueue).port = s.port := rfl
@[simp] theorem State.clearQueue_result (s : State) : (s.clearQueue).result = s.result := rfl
@[simp] theorem State.clearQueue_trace (s : State) : (s.clearQueue).trace = s.trace := rfl
@[simp] theorem State.clearQueue_free (s : State) : (s.clearQueue).free = s.free := rfl

/-! ### State.dequeue -/

@[simp] theorem State.dequeue_cfg (s : State) : (s.dequeue).cfg = s.cfg := rfl
@[simp] theorem State.dequeue_fsm (s : State) : (s.dequeue).fsm = s.fsm := rfl
@[simp] theorem State.dequeue_seg (s : State) : (s.dequeue).seg = s.seg := rfl
@[simp] theorem State.dequeue_ax (s : State) : (s.dequeue).ax = s.ax := rfl
@[simp] theorem State.dequeue_pin (s : State) : (s.dequeue).pin = s.pin := rfl
@[simp] theorem State.dequeue_enc (s : State) : (s.dequeue).enc = s.enc := rfl
@[simp] theorem State.dequeue_ctl (s : State) : (s.dequeue).ctl = s.ctl := rfl
@[simp] theorem State.dequeue_rt (s : State) : (s.dequeue).rt = s.rt := rfl
@[simp] theorem State.dequeue_rf (s : State) : (s.dequeue).rf = s.rf := rfl
@[simp] theorem State.dequeue_spi (s : State) : (s.dequeue).spi = s.spi := rfl
@[simp] theorem State.dequeue_cnt (s : State) : (s.dequeue).cnt = s.cnt := rfl
@[simp] theorem State.dequeue_port (s : State) : (s.dequeue).port = s.port := rfl
@[simp] theorem State.dequeue_result (s : State) : (s.dequeue).result = s.result := rfl
@[simp] theorem State.dequeue_trace (s : State) : (s.dequeue).trace = s.trace := rfl
@[simp] theorem State.dequeue_free (s : State) : (s.dequeue).free = s.free := rfl

/-! ### State.advance -/

@[simp] theorem State.advance_cfg (s : State) : (s.advance).cfg = s.cfg := rfl
@[simp] theorem State.advance_fsm (s : State) : (s.advance).fsm = s.fsm := rfl
@[simp] theorem State.advance_seg (s : State) : (s.advance).seg = s.seg := rfl
@[simp] theorem State.advance_q (s : State) : (s.advance).q = s.q := rfl
@[simp] theorem State.advance_ax (s : State) : (s.advance).ax = s.ax := rfl
@[simp] theorem State.advance_pin (s : State) : (s.advance).pin = s.pin := rfl
@[simp] theorem State.advance_enc (s : State) : (s.advance).enc = s.enc := rfl
@[simp] theorem State.advance_ctl (s : State) : (s.advance).ctl = s.ctl := rfl
@[simp] theorem State.advance_rt (s : State) : (s.advance).rt = s.rt := rfl
@[simp] theorem State.advance_rf (s : State) : (s.advance).rf = s.rf := rfl
@[simp] theorem State.advance_spi (s : State) : (s.advance).spi = s.spi := rfl
@[simp] theorem State.advance_cnt (s : State) : (s.advance).cnt = s.cnt := rfl
@[simp] theorem State.advance_port (s : State) : (s.advance).port = s.port.tail := rfl
@[simp] theorem State.advance_result (s : State) : (s.advance).result = s.result := rfl
@[simp] theorem State.advance_trace (s : State) : (s.advance).trace = s.trace := rfl
@[simp] theorem State.advance_free (s : State) : (s.advance).free = s.free := rfl

/-! ### dropAccumulation -/

@[simp] theorem dropAccumulation_cfg (s : State) : (dropAccumulation s).cfg = s.cfg := rfl
@[simp] theorem dropAccumulation_fsm (s : State) : (dropAccumulation s).fsm = s.fsm := rfl
@[simp] theorem dropAccumulation_seg (s : State) : (dropAccumulation s).seg = s.seg := rfl
@[simp] theorem dropAccumulation_q (s : State) : (dropAccumulation s).q = s.q := rfl
@[simp] theorem dropAccumulation_ax (s : State) : (dropAccumulation s).ax = s.ax := rfl
@[simp] theorem dropAccumulation_pin (s : State) : (dropAccumulation s).pin = s.pin := rfl
@[simp] theorem dropAccumulation_enc (s : State) : (dropAccumulation s).enc = s.enc := rfl
@[simp] theorem dropAccumulation_ctl (s : State) : (dropAccumulation s).ctl = s.ctl := rfl
@[simp] theorem dropAccumulation_rt (s : State) : (dropAccumulation s).rt = { s.rt with idx := 0#8 } := rfl
@[simp] theorem dropAccumulation_rf (s : State) : (dropAccumulation s).rf = s.rf := rfl
@[simp] theorem dropAccumulation_spi (s : State) : (dropAccumulation s).spi = s.spi := rfl
@[simp] theorem dropAccumulation_cnt (s : State) : (dropAccumulation s).cnt = s.cnt := rfl
@[simp] theorem dropAccumulation_port (s : State) : (dropAccumulation s).port = s.port := rfl
@[simp] theorem dropAccumulation_result (s : State) : (dropAccumulation s).result = s.result := rfl
@[simp] theorem dropAccumulation_trace (s : State) : (dropAccumulation s).trace = s.trace := rfl
@[simp] theorem dropAccumulation_free (s : State) : (dropAccumulation s).free = s.free := rfl

/-! ### appendByte -/

@[simp] theorem appendByte_cfg (b : Byte) (s : State) : (appendByte b s).cfg = s.cfg := rfl
@[simp] theorem appendByte_fsm (b : Byte) (s : State) : (appendByte b s).fsm = s.fsm := rfl
@[simp] theorem appendByte_seg (b : Byte) (s : State) : (appendByte b s).seg = s.seg := rfl
@[simp] theorem appendByte_q (b : Byte) (s : State) : (appendByte b s).q = s.q := rfl
@[simp] theorem appendByte_ax (b : Byte) (s : State) : (appendByte b s).ax = s.ax := rfl
@[simp] theorem appendByte_pin (b : Byte) (s : State) : (appendByte b s).pin = s.pin := rfl
@[simp] theorem appendByte_enc (b : Byte) (s : State) : (appendByte b s).enc = s.enc := rfl
@[simp] theorem appendByte_ctl (b : Byte) (s : State) : (appendByte b s).ctl = s.ctl := rfl
@[simp] theorem appendByte_rt (b : Byte) (s : State) : (appendByte b s).rt = ⟨s.rt.buf.set s.rt.idx.toNat b, s.rt.idx + 1#8⟩ := rfl
@[simp] theorem appendByte_rf (b : Byte) (s : State) : (appendByte b s).rf = s.rf := rfl
@[simp] theorem appendByte_spi (b : Byte) (s : State) : (appendByte b s).spi = s.spi := rfl
@[simp] theorem appendByte_cnt (b : Byte) (s : State) : (appendByte b s).cnt = s.cnt := rfl
@[simp] theorem appendByte_port (b : Byte) (s : State) : (appendByte b s).port = s.port := rfl
@[simp] theorem appendByte_result (b : Byte) (s : State) : (appendByte b s).result = s.result := rfl
@[simp] theorem appendByte_trace (b : Byte) (s : State) : (appendByte b s).trace = s.trace := rfl
@[simp] theorem appendByte_free (b : Byte) (s : State) : (appendByte b s).free = s.free := rfl

/-! ### Two states with the same fields -/

theorem State.eq_of_fields {s t : State} (cfg : s.cfg = t.cfg) (fsm : s.fsm = t.fsm) (seg : s.seg = t.seg)
    (q : s.q = t.q) (ax : s.ax = t.ax) (pin : s.pin = t.pin) (enc : s.enc = t.enc) (ctl : s.ctl = t.ctl)
    (rt : s.rt = t.rt) (rf : s.rf = t.rf) (spi : s.spi = t.spi) (cnt : s.cnt = t.cnt) (port : s.port = t.port)
    (result : s.result = t.result) (trace : s.trace = t.trace) (free : s.free = t.free) : s = t := by
  cases s; cases t; simp_all

end Machine
end Sys2Proof
end

