-- ==== Sys2Proof/Laws/Checks.lean ====
section
/-! SUPPORT. The checks of a step say what the invariants say: a state passes them exactly when it is sound. -/

namespace Sys2Proof.Machine

theorem all_id {l : List Bool} : l.all id = true ↔ ∀ b ∈ l, b = true := by simp

theorem axes_all {p : Axis → Bool} : Axis.all.all p = true ↔ ∀ i, p i = true := by
  simp only [Axis.all, List.all_cons, List.all_nil, Bool.and_true, Bool.and_eq_true]
  exact ⟨fun ⟨hx, hy, hz⟩ i => by cases i <;> assumption, fun h => ⟨h .x, h .y, h .z⟩⟩

theorem between_iff (f : Fsm) : f.between = true ↔ f = .idle ∨ f = .queued ∨ f = .running ∨ f = .done := by
  cases f <;> decide

theorem queueConsistent_iff (c : Config) (q : Queue) : queueConsistent c q = true ↔
    q.tail.toNat = (q.head.toNat + q.count.toNat) % c.qcap ∧
      ∀ i, (q.qsum.get i).toNat = ((queuedSegments c q).map fun g => (g.steps.get i).toNat).sum := by
  simp only [queueConsistent, all_id, List.forall_mem_cons, axes_all, beq_iff_eq]
  exact ⟨fun h => ⟨h.1, h.2.1⟩, fun h => ⟨h.1, h.2, by simp⟩⟩

theorem axisConsistent_iff (c : Config) (a : AxisState) : axisConsistent c a = true ↔ AxisOk c a := by
  simp only [axisConsistent, all_id, List.forall_mem_cons, decide_eq_true_eq, beq_iff_eq]
  exact ⟨fun ⟨h1, h2, h3, h4, h5, h6, h7, h8, h9, _⟩ => ⟨h1, h2, h3, h4, h5, h6, h7, h8, h9⟩,
    fun h => ⟨h.1, h.2, h.3, h.4, h.5, h.6, h.7, h.8, h.9, by simp⟩⟩

theorem engineConsistent_iff (s : State) : s.fsm.between = true ∧ engineConsistent s = true ↔ EngineOk s := by
  simp only [engineConsistent, between_iff, all_id, List.forall_mem_cons, axes_all]
  constructor
  · rintro ⟨hb, ha, hi, hx, -⟩
    have ha' : s.seg.active = true ↔ s.fsm = .running := by
      have := beq_iff_eq.mp ha
      rw [this, beq_iff_eq]
    refine ⟨ha', hb, fun h => by simpa [h] using hi, fun h i => ?_, fun h i => ?_, fun i h => ?_⟩
    · simpa [h] using (hx i).1
    · have := (hx i).2.1
      simpa [h] using this
    · simpa [h] using (hx i).2.2.1
  · intro h
    refine ⟨h.between, ?_, ?_, fun i => ⟨?_, ?_, ?_, by simp⟩, by simp⟩
    · rw [beq_iff_eq, Bool.eq_iff_iff, beq_iff_eq]; exact h.active
    · by_cases hf : s.fsm = .idle
      · simp [hf, h.idle hf]
      · simp [hf]
    · cases ha : s.seg.active
      · simp [h.rest ha i]
      · rfl
    · by_cases hf : s.fsm = .running
      · simp [hf]
      · simp [h.lines hf i]
    · by_cases hh : (s.ax.get i).highHold = 0#32
      · simp [hh]
      · simp [h.pulse i hh]

theorem controlConsistent_iff (s : State) : controlConsistent s = true ↔ ControlOk s := by
  simp only [controlConsistent, all_id, List.forall_mem_cons, axes_all, decide_eq_true_eq]
  exact ⟨fun ⟨h1, h2, h3, _⟩ => ⟨h1, h2, h3⟩, fun h => ⟨h.1, h.2.1, h.2.2, by simp⟩⟩

theorem heldLengths_all (c : Config) (rf : RespFifo) (p : Nat → Bool) : (heldLengths c rf).all p = true ↔
    ∀ j < rf.count.toNat, p (fifoSlot rf (fifoIndex c rf j)).len.toNat = true := by
  simp [heldLengths]

/-- The checks of a step and the invariants agree. -/
theorem sound_iff (s : State) :
    s.Sound ↔ s.fsm.between = true ∧ s.shaped = true ∧ s.consistent = true := by
  simp only [State.shaped, State.consistent, all_id, List.forall_mem_cons, heldLengths_all, axes_all, queueConsistent_iff,
    axisConsistent_iff, controlConsistent_iff, decide_eq_true_eq, beq_iff_eq]
  constructor
  · intro h
    have he := (engineConsistent_iff s).2 h.engine
    have hq : s.q.tail.toNat < s.cfg.qcap := by
      rw [h.queue.tail]; exact Nat.mod_lt _ (by have := h.queue.head; omega)
    refine ⟨he.1, ⟨h.queue.slots, h.queue.head, hq, h.queue.count, h.router.1, h.router.2, h.fifo.slots,
      List.all_eq_true.2 fun t ht => beq_iff_eq.2 (h.fifo.data t ht), h.fifo.head, h.fifo.count, fun j hj => (h.fifo.lens j hj).2, h.pending.1, ?_, h.tx, by simp⟩,
      ⟨h.queue.tail, h.queue.qsum⟩, h.axes, he.2, fun j hj => (h.fifo.lens j hj).1, h.control, by simp⟩
    cases hv : s.spi.pending.valid
    · rfl
    · simpa [hv] using h.pending.2 hv
  · rintro ⟨hb, ⟨h1, h2, -, h4, h5, h6, h7, h8, h9, h10, h11, h12, h13, h14, -⟩, ⟨g1, g2⟩, g3, g4, g5, g6, -⟩
    exact ⟨⟨h1, h2, h4, g1, g2⟩, g3, (engineConsistent_iff s).1 ⟨hb, g4⟩, 
      ⟨h7, fun t ht => beq_iff_eq.1 (List.all_eq_true.1 h8 t ht), h9, h10, fun j hj => ⟨g5 j hj, h11 j hj⟩⟩,
      g6, ⟨h5, h6⟩, ⟨h12, fun hv => by simpa [hv] using h13⟩, h14⟩

/-- A good state is sound. -/
theorem State.Good.sound {s : State} (h : s.Good) : s.Sound :=
  ⟨h.queue, h.axes, h.engine, h.fifo, h.control, ⟨h.router.buf, h.router.idx⟩,
    ⟨h.spi.data, fun hv => (h.spi.len hv).2⟩, h.spi.tx⟩

/-- A step in a sound state runs the decoded item, and one in any other state stops. -/
theorem step_cases (s : State) :
    (s.cfg.wf = true ∧ s.Sound ∧
      step s = match decode s.cfg s.nextItem with
        | .error e => .refused (.illegalItem e)
        | .ok i => exec i s.advance) ∨
    (s.cfg.wf = false ∧ step s = .refused .configInvalid) ∨
    (s.cfg.wf = true ∧ s.fsm.between = false ∧ step s = .refused .engineOutsideSpec) ∨
    (s.cfg.wf = true ∧ s.fsm.between = true ∧ ¬ s.Sound ∧ (step s = .fault .outOfBounds ∨ step s = .fault .inconsistent)) := by
  unfold step
  cases hw : s.cfg.wf
  · simp
  cases hb : s.fsm.between
  · simp
  cases hs : s.shaped
  · simp [sound_iff, hs]
  cases hc : s.consistent
  · simp [sound_iff, hc]
  · exact .inl ⟨rfl, (sound_iff s).2 ⟨hb, hs, hc⟩, rfl⟩

end Sys2Proof.Machine
end

