-- ==== Sys2Proof/Laws/Codec.lean ====
section
/-! SUPPORT. The codec (00_scope.md R12, 40_codec.md R130 to R142): bytes of a buffer after a write, the parity folds, and
what an encoder's frame holds. -/

namespace Sys2Proof.Machine

/-! ### Bytes of a buffer -/

theorem byteAt_set (f : List Byte) (p k : Nat) (v : Byte) :
    byteAt (f.set p v) k = if k = p ∧ p < f.length then v else byteAt f k := by
  simp only [byteAt, List.getD_eq_getElem?_getD, List.getElem?_set]
  by_cases h : p = k
  · subst h
    by_cases hl : p < f.length <;> simp [hl]
  · rw [if_neg h, if_neg (by rintro ⟨rfl, -⟩; exact h rfl)]

@[simp] theorem byteAt_replicate (n k : Nat) : byteAt (List.replicate n 0#8) k = 0#8 := by
  simp only [byteAt, List.getD_eq_getElem?_getD, List.getElem?_replicate]
  split <;> rfl

theorem eq_of_byteAt {f g : List Byte} (hl : f.length = g.length) (h : ∀ k, k < f.length → byteAt f k = byteAt g k) :
    f = g := by
  apply List.ext_getElem hl
  intro k h1 h2
  have := h k h1
  simpa [byteAt, List.getD_eq_getElem?_getD, h1, h2] using this

/-! ### Big-endian access (R12) -/

theorem memRead_zero (f : List Byte) (off : Nat) : memRead f off 0 = 0 := rfl
theorem memRead_succ (f : List Byte) (off n : Nat) :
    memRead f off (n + 1) = memRead f off n * 256 + (byteAt f (off + n)).toNat := by
  simp [memRead, List.range_succ]

theorem memRead_congr {f g : List Byte} {off : Nat} (n : Nat)
    (h : ∀ k, k < n → byteAt f (off + k) = byteAt g (off + k)) : memRead f off n = memRead g off n := by
  induction n with
  | zero => rfl
  | succ n ih =>
    rw [memRead_succ, memRead_succ, ih fun k hk => h k (by omega), h n (by omega)]

theorem memRead_lt (f : List Byte) (off n : Nat) : memRead f off n < 256 ^ n := by
  induction n with
  | zero => simp [memRead_zero]
  | succ n ih =>
    have := (byteAt f (off + n)).isLt
    rw [memRead_succ, pow_succ]; omega

@[simp] theorem memWrite_length (f : List Byte) (off n v : Nat) : (memWrite f off n v).length = f.length := by
  unfold memWrite
  generalize hn : List.range n = l
  clear hn
  induction l generalizing f with
  | nil => rfl
  | cons a l ih => simp [ih]

/-- The bytes of a buffer after a write (R12). -/
theorem byteAt_memWrite {f : List Byte} {off n : Nat} (h : off + n ≤ f.length) (v k : Nat) :
    byteAt (memWrite f off n v) k =
      if off ≤ k ∧ k < off + n then BitVec.ofNat 8 (v / 256 ^ (n - 1 - (k - off))) else byteAt f k := by
  suffices ∀ m, m ≤ n →
      byteAt ((List.range m).foldl (fun g k => g.set (off + k) (BitVec.ofNat 8 (v / 256 ^ (n - 1 - k)))) f) k =
        (if off ≤ k ∧ k < off + m then BitVec.ofNat 8 (v / 256 ^ (n - 1 - (k - off))) else byteAt f k) ∧
      ((List.range m).foldl (fun g k => g.set (off + k) (BitVec.ofNat 8 (v / 256 ^ (n - 1 - k)))) f).length = f.length
    from (this n le_rfl).1
  intro m
  induction m with
  | zero => intro _; exact ⟨by rw [if_neg (by omega)]; rfl, rfl⟩
  | succ m ih =>
    intro hm
    obtain ⟨hb, hl⟩ := ih (by omega)
    rw [List.range_succ, List.foldl_append]
    simp only [List.foldl_cons, List.foldl_nil, List.length_set, hl, and_true]
    rw [byteAt_set, hl, hb]
    by_cases hk : k = off + m
    · rw [if_pos ⟨hk, by omega⟩, if_pos (by omega)]
      subst hk; simp
    · rw [if_neg (by tauto)]
      by_cases h1 : off ≤ k ∧ k < off + m
      · rw [if_pos h1, if_pos (by omega)]
      · rw [if_neg h1, if_neg (by omega)]

/-- Bytes that are the digits of `v` read as `v` (R12). -/
theorem memRead_digits (g : List Byte) (off n v : Nat)
    (h : ∀ k, k < n → byteAt g (off + k) = BitVec.ofNat 8 (v / 256 ^ (n - 1 - k))) :
    memRead g off n = v % 256 ^ n := by
  induction n generalizing v with
  | zero => simp [memRead_zero, Nat.mod_one]
  | succ n ih =>
    have h1 : memRead g off n = v / 256 % 256 ^ n := by
      apply ih
      intro k hk
      rw [h k (by omega), Nat.div_div_eq_div_mul, ← pow_succ']
      congr 3; omega
    have h2 : (byteAt g (off + n)).toNat = v % 256 := by
      rw [h n (by omega)]; simp
    rw [memRead_succ, h1, h2, pow_succ', Nat.mod_mul]; ring

theorem memRead_memWrite {f : List Byte} {off n : Nat} (h : off + n ≤ f.length) (v : Nat) :
    memRead (memWrite f off n v) off n = v % 256 ^ n := by
  apply memRead_digits
  intro k hk
  rw [byteAt_memWrite h, if_pos (by omega)]
  congr 3; omega

/-! ### Folds of exclusive or (R130, R131) -/

theorem foldl_op_init {α : Type} (op : α → α → α) (z : α) (assoc : ∀ a b c, op (op a b) c = op a (op b c))
    (left : ∀ a, op z a = a) (right : ∀ a, op a z = a) (g : Nat → α) (l : List Nat) (a : α) :
    l.foldl (fun acc j => op acc (g j)) a = op a (l.foldl (fun acc j => op acc (g j)) z) := by
  induction l generalizing a with
  | nil => simp [right]
  | cons j l ih => simp only [List.foldl_cons]; rw [ih (op a (g j)), ih (op z (g j)), left, assoc]

theorem foldl_op_congr {α : Type} (op : α → α → α) (g g' : Nat → α) (l : List Nat) (a : α)
    (h : ∀ j ∈ l, g j = g' j) :
    l.foldl (fun acc j => op acc (g j)) a = l.foldl (fun acc j => op acc (g' j)) a := by
  induction l generalizing a with
  | nil => rfl
  | cons j l ih =>
    simp only [List.foldl_cons]
    rw [h j (by simp), ih _ fun k hk => h k (by simp [hk])]

/-- Changing one entry of a fold changes its value by as much. -/
theorem foldl_op_update {α : Type} (op : α → α → α) (z : α) (assoc : ∀ a b c, op (op a b) c = op a (op b c))
    (comm : ∀ a b, op a b = op b a) (left : ∀ a, op z a = a) (g g' : Nat → α) (l : List Nat) (hn : l.Nodup) (j : Nat)
    (hj : j ∈ l) (m : α) (hm : g' j = op (g j) m) (h : ∀ k ∈ l, k ≠ j → g' k = g k) :
    l.foldl (fun acc j => op acc (g' j)) z = op (l.foldl (fun acc j => op acc (g j)) z) m := by
  have right : ∀ a, op a z = a := fun a => by rw [comm, left]
  induction l with
  | nil => simp at hj
  | cons k l ih =>
    simp only [List.foldl_cons]
    rw [foldl_op_init op z assoc left right g' l, foldl_op_init op z assoc left right g l, left, left]
    rw [List.nodup_cons] at hn
    by_cases hk : k = j
    · subst hk
      have e : l.foldl (fun acc j => op acc (g' j)) z = l.foldl (fun acc j => op acc (g j)) z :=
        foldl_op_congr op g' g l z fun i hi => h i (by simp [hi]) (by rintro rfl; exact hn.1 hi)
      rw [e, hm, assoc, assoc, comm m]
    · have hj' : j ∈ l := by simpa [Ne.symm hk] using hj
      rw [ih hn.2 hj' fun i hi hij => h i (by simp [hi]) hij, h k (by simp) hk, assoc]

theorem mem_span (lo hi j : Nat) : j ∈ List.range' lo (hi + 1 - lo) ↔ lo ≤ j ∧ j ≤ hi := by
  rw [List.mem_range'_1]; omega

theorem byteXor_congr {f g : List Byte} {lo hi : Nat} (h : ∀ j, lo ≤ j → j ≤ hi → byteAt f j = byteAt g j) :
    byteXor f lo hi = byteXor g lo hi :=
  foldl_op_congr (· ^^^ ·) _ _ _ _ fun j hj => h j ((mem_span lo hi j).mp hj).1 ((mem_span lo hi j).mp hj).2

theorem byteXor_update {f g : List Byte} {lo hi j : Nat} (h1 : lo ≤ j) (h2 : j ≤ hi) (m : Byte)
    (hj : byteAt g j = byteAt f j ^^^ m) (h : ∀ k, k ≠ j → byteAt g k = byteAt f k) :
    byteXor g lo hi = byteXor f lo hi ^^^ m :=
  foldl_op_update (· ^^^ ·) 0#8 (fun a b c => BitVec.xor_assoc a b c) (fun a b => BitVec.xor_comm a b)
    (fun a => BitVec.zero_xor) _ _ _ (List.nodup_range' ..) j ((mem_span lo hi j).mpr ⟨h1, h2⟩) m hj
    fun k _ hk => h k hk

/-- What byte `j` contributes to `bit_xor` (R131). -/
def bitPart (f : List Byte) (p k j : Nat) : Bool := bitsXor (if j = p then withBit (byteAt f j) k false else byteAt f j)

theorem bitXor_congr {f g : List Byte} {p k lo hi : Nat}
    (h : ∀ j, lo ≤ j → j ≤ hi → bitPart f p k j = bitPart g p k j) : bitXor f p k lo hi = bitXor g p k lo hi :=
  foldl_op_congr (· ^^ ·) (bitPart f p k) (bitPart g p k) _ _ fun j hj =>
    h j ((mem_span lo hi j).mp hj).1 ((mem_span lo hi j).mp hj).2

theorem bitXor_update {f g : List Byte} {p k lo hi j : Nat} (h1 : lo ≤ j) (h2 : j ≤ hi)
    (hj : bitPart g p k j = !bitPart f p k j) (h : ∀ i, i ≠ j → byteAt g i = byteAt f i) :
    bitXor g p k lo hi = !bitXor f p k lo hi := by
  have := foldl_op_update (· ^^ ·) false (by decide) (by decide) (by decide) (bitPart f p k) (bitPart g p k)
    (List.range' lo (hi + 1 - lo)) (List.nodup_range' ..) j ((mem_span lo hi j).mpr ⟨h1, h2⟩) true
    (by rw [hj]; cases bitPart f p k j <;> rfl) fun i _ hi => by simp only [bitPart, h i hi]
  simp only [Bool.xor_true] at this
  exact this

/-! ### Bits of a byte -/

theorem getLsbD_bit (k j : Nat) (hk : k < 8) : (1#8 <<< k).getLsbD j = decide (j = k) := by
  by_cases hj : j < 8
  · interval_cases k <;> interval_cases j <;> rfl
  · rw [BitVec.getLsbD_of_ge _ _ (Nat.le_of_not_lt hj)]; symm; simpa using by omega

theorem getLsbD_withBit (b : Byte) {k : Nat} (hk : k < 8) (v : Bool) (j : Nat) :
    (withBit b k v).getLsbD j = if j = k then v else b.getLsbD j := by
  have h1 := getLsbD_bit k j hk
  by_cases hj : j = k
  · subst hj
    cases v <;> simp [withBit, hk]
  · cases v <;> simp [withBit, h1, hj]
    all_goals intro h; exact BitVec.lt_of_getLsbD h

theorem bitsXor_flip (b : Byte) {k : Nat} (hk : k < 8) : bitsXor (b ^^^ (1#8 <<< k)) = !bitsXor b := by
  have := foldl_op_update (· ^^ ·) false (by decide) (by decide) (by decide) (fun j => b.getLsbD j)
    (fun j => (b ^^^ (1#8 <<< k)).getLsbD j) (List.range 8) List.nodup_range k (List.mem_range.mpr hk) true
    (by simp only [BitVec.getLsbD_xor, getLsbD_bit k k hk, decide_true])
    fun j _ hj => by simp only [BitVec.getLsbD_xor, getLsbD_bit k j hk, hj, decide_false, Bool.xor_false]
  simp only [Bool.xor_true] at this
  exact this

/-! ### Parity (R132, R133) -/

theorem Parity.wf_byteXor {L : Nat} {fs : List Field} {p lo hi : Nat} (h : Parity.wf L fs (.byteXor p lo hi) = true) :
    3 ≤ p ∧ p + 2 ≤ L ∧ 1 ≤ lo ∧ lo ≤ hi ∧ hi + 2 ≤ L ∧ (p < lo ∨ hi < p) ∧ ∀ f ∈ fs, p ∉ f.bytes := by
  simpa [Parity.wf, and_assoc] using h

theorem Parity.wf_bitXor {L : Nat} {fs : List Field} {p k lo hi : Nat} (h : Parity.wf L fs (.bitXor p k lo hi) = true) :
    3 ≤ p ∧ p + 2 ≤ L ∧ k < 8 ∧ 1 ≤ lo ∧ lo ≤ hi ∧ hi + 2 ≤ L ∧
      ∀ f ∈ fs, p ∉ f.bytes ∨ (f.w = 1 ∧ f.mask.getLsbD k = false) := by
  simpa [Parity.wf, and_assoc] using h

theorem Parity.wf_stub {L : Nat} {fs : List Field} {p : Nat} (h : Parity.wf L fs (.stub p) = true) :
    3 ≤ p ∧ p + 2 ≤ L ∧ ∀ f ∈ fs, p ∉ f.bytes := by
  simpa [Parity.wf, and_assoc] using h

theorem withBit_withBit (b : Byte) {k : Nat} (hk : k < 8) (u v : Bool) : withBit (withBit b k u) k v = withBit b k v := by
  apply BitVec.eq_of_getLsbD_eq; intro j hj
  simp only [getLsbD_withBit _ hk]; split <;> rfl

theorem withBit_self (b : Byte) {k : Nat} (hk : k < 8) : withBit b k (b.getLsbD k) = b := by
  apply BitVec.eq_of_getLsbD_eq; intro j hj
  simp only [getLsbD_withBit _ hk]; split
  · subst_vars; rfl
  · rfl

/-- The left-out bit plays no part in `bit_xor` (R131). -/
theorem bitXor_writeBit (f : List Byte) (p : Nat) {k : Nat} (hk : k < 8) (lo hi : Nat) (v : Bool) :
    bitXor (f.set p (withBit (byteAt f p) k v)) p k lo hi = bitXor f p k lo hi := by
  apply bitXor_congr
  intro j _ _
  unfold bitPart
  by_cases hj : j = p
  · subst hj
    rw [if_pos rfl, if_pos rfl, byteAt_set]
    split
    · rw [withBit_withBit _ hk]
    · rfl
  · rw [if_neg hj, if_neg hj, byteAt_set, if_neg (by tauto)]

theorem byteXor_writeByte (f : List Byte) {p lo hi : Nat} (h : p < lo ∨ hi < p) (v : Byte) :
    byteXor (f.set p v) lo hi = byteXor f lo hi :=
  byteXor_congr fun j h1 h2 => by rw [byteAt_set, if_neg (by omega)]

@[simp] theorem writeParity_length (par : Parity) (f : List Byte) : (writeParity par f).length = f.length := by
  cases par <;> simp [writeParity]

/-- "After it, `check_parity(par, f)` is true" (R133). -/
theorem checkParity_writeParity {L : Nat} {fs : List Field} {par : Parity} {f : List Byte}
    (h : Parity.wf L fs par = true) (hl : f.length = L) : checkParity par (writeParity par f) = true := by
  cases par with
  | none => rfl
  | stub p => rfl
  | byteXor p lo hi =>
    obtain ⟨h1, h2, h3, h4, h5, h6, h7⟩ := Parity.wf_byteXor h
    simp only [checkParity, writeParity, byteXor_writeByte f h6]
    rw [byteAt_set, if_pos ⟨rfl, by omega⟩]; simp
  | bitXor p k lo hi =>
    obtain ⟨h1, h2, h3, h4, h5, h6, h7⟩ := Parity.wf_bitXor h
    simp only [checkParity, writeParity, bitXor_writeBit f p h3]
    rw [byteAt_set, if_pos ⟨rfl, by omega⟩, getLsbD_withBit _ h3]; simp

theorem writeParity_idem {L : Nat} {fs : List Field} {par : Parity} {f : List Byte}
    (h : Parity.wf L fs par = true) (hl : f.length = L) : writeParity par (writeParity par f) = writeParity par f := by
  cases par with
  | none => rfl
  | stub p => simp [writeParity]
  | byteXor p lo hi =>
    obtain ⟨h1, h2, h3, h4, h5, h6, h7⟩ := Parity.wf_byteXor h
    simp only [writeParity, byteXor_writeByte f h6, List.set_set]
  | bitXor p k lo hi =>
    obtain ⟨h1, h2, h3, h4, h5, h6, h7⟩ := Parity.wf_bitXor h
    simp only [writeParity, bitXor_writeBit f p h3, List.set_set]
    rw [byteAt_set, if_pos ⟨rfl, by omega⟩, withBit_withBit _ h3]

/-! ### Lengths -/

@[simp] theorem writeField_length (r : Record) (f : List Byte) (d : Field) : (writeField r f d).length = f.length := by
  simp only [writeField]; split <;> simp

@[simp] theorem writeFields_length (r : Record) (fs : List Field) (f : List Byte) :
    (fs.foldl (writeField r) f).length = f.length := by
  induction fs generalizing f with
  | nil => rfl
  | cons d fs ih => simp [ih]

@[simp] theorem encodeFrame_length (lay : Layout) (h code tail : Byte) (r : Record) :
    (encodeFrame lay h code tail r).length = lay.len := by
  simp [encodeFrame]

/-! ### Fields (R135, R141) -/

theorem Field.mem_bytes (d : Field) (k : Nat) : k ∈ d.bytes ↔ d.off ≤ k ∧ k < d.off + d.w := by
  simp [Field.bytes, List.mem_range'_1]

theorem Field.wf_width {L : Nat} {d : Field} (h : d.wf L = true) :
    (d.w = 1 ∨ d.w = 2 ∨ d.w = 4 ∨ d.w = 8) ∧ 3 ≤ d.off ∧ d.off + d.w + 1 ≤ L ∧ (d.w = 1 ∨ d.mask = 0xFF#8) := by
  simp [Field.wf] at h
  obtain ⟨⟨⟨h1, h2⟩, h3⟩, h4⟩ := h
  refine ⟨by tauto, h2, by omega, h4⟩

theorem Field.apart_spec {f g : Field} (h : Field.apart f g = true) (k : Nat) : k ∈ f.bytes → k ∉ g.bytes := by
  simp [Field.apart] at h; exact h k

theorem byteAt_writeField_out (r : Record) {f : List Byte} {d : Field} (hl : d.off + d.w ≤ f.length) {k : Nat}
    (hk : k ∉ d.bytes) : byteAt (writeField r f d) k = byteAt f k := by
  rw [Field.mem_bytes] at hk
  simp only [writeField]
  split
  · rw [byteAt_set, if_neg (by omega)]
  · rw [byteAt_memWrite hl, if_neg hk]

theorem byteAt_writeField_congr (r : Record) {f g : List Byte} {d : Field} (hl : d.off + d.w ≤ f.length)
    (hg : f.length = g.length) {k : Nat} (hk : byteAt f k = byteAt g k) :
    byteAt (writeField r f d) k = byteAt (writeField r g d) k := by
  simp only [writeField]
  split
  · simp only [byteAt_set, hg]
    split
    · rename_i h; rw [h.1] at hk; rw [hk]
    · exact hk
  · rw [byteAt_memWrite hl, byteAt_memWrite (hg ▸ hl), hk]

theorem byteAt_writeFields_out (r : Record) (fs : List Field) {f : List Byte}
    (hl : ∀ d ∈ fs, d.off + d.w ≤ f.length) {k : Nat} (hk : ∀ d ∈ fs, k ∉ d.bytes) :
    byteAt (fs.foldl (writeField r) f) k = byteAt f k := by
  induction fs generalizing f with
  | nil => rfl
  | cons d fs ih =>
    rw [List.foldl_cons, ih (by simpa using fun x hx => hl x (by simp [hx])) fun x hx => hk x (by simp [hx])]
    exact byteAt_writeField_out r (hl d (by simp)) (hk d (by simp))

/-- A field of a layout is written as if alone. -/
theorem byteAt_writeFields (r : Record) (fs : List Field) {f : List Byte}
    (hl : ∀ d ∈ fs, d.off + d.w ≤ f.length) (hp : fs.Pairwise fun f g => Field.apart f g = true) {d : Field}
    (hd : d ∈ fs) {k : Nat} (hk : k ∈ d.bytes) :
    byteAt (fs.foldl (writeField r) f) k = byteAt (writeField r f d) k := by
  induction fs generalizing f with
  | nil => simp at hd
  | cons x fs ih =>
    rw [List.pairwise_cons] at hp
    rw [List.foldl_cons]
    have hl' : ∀ y ∈ fs, y.off + y.w ≤ (writeField r f x).length := by
      simpa using fun y hy => hl y (by simp [hy])
    by_cases hx : d = x
    · subst hx
      exact byteAt_writeFields_out r fs hl' fun y hy => Field.apart_spec (hp.1 y hy) k hk
    · have hd' : d ∈ fs := by simpa [hx] using hd
      rw [ih hl' hp.2 hd']
      have hout : k ∉ x.bytes := fun hkx => Field.apart_spec (hp.1 d hd') k hkx hk
      exact byteAt_writeField_congr r (by simpa using hl d hd) (by simp)
        (byteAt_writeField_out r (hl x (by simp)) hout)

theorem Layout.wf_parts {l : Layout} (h : l.wf = true) :
    4 ≤ l.len ∧ l.len ≤ 42 ∧ (∀ d ∈ l.fields, d.wf l.len = true) ∧
      l.fields.Pairwise (fun f g => Field.apart f g = true) ∧ (l.fields.map (·.name)).Nodup ∧
      Parity.wf l.len l.fields l.parity = true := by
  simp only [Layout.wf, Bool.and_eq_true, decide_eq_true_eq, List.all_eq_true] at h
  obtain ⟨⟨⟨⟨⟨h1, h2⟩, h3⟩, h4⟩, h5⟩, h6⟩ := h
  exact ⟨h1, h2, h3, h4, h5, h6⟩

/-- The frame before its parity is written (R141). -/
def bareFrame (lay : Layout) (hdr code tail : Byte) (r : Record) : List Byte :=
  (lay.fields.foldl (writeField r) ((((List.replicate lay.len 0#8).set 0 hdr).set 1 code).set 2 r.fid)).set
    (lay.len - 1) tail

theorem encodeFrame_eq (lay : Layout) (h c t : Byte) (r : Record) :
    encodeFrame lay h c t r = writeParity lay.parity (bareFrame lay h c t r) := rfl

@[simp] theorem bareFrame_length (lay : Layout) (h c t : Byte) (r : Record) : (bareFrame lay h c t r).length = lay.len := by
  simp [bareFrame]

/-- The bytes of the frame before its parity. -/
theorem byteAt_bareFrame {lay : Layout} (hw : lay.wf = true) (h c t : Byte) (r : Record) :
    byteAt (bareFrame lay h c t r) 0 = h ∧ byteAt (bareFrame lay h c t r) 1 = c ∧
      byteAt (bareFrame lay h c t r) 2 = r.fid ∧ byteAt (bareFrame lay h c t r) (lay.len - 1) = t ∧
      (∀ d ∈ lay.fields, ∀ k ∈ d.bytes, byteAt (bareFrame lay h c t r) k =
        byteAt (writeField r (List.replicate lay.len 0#8) d) k) ∧
      ∀ k, 3 ≤ k → k + 1 < lay.len → (∀ d ∈ lay.fields, k ∉ d.bytes) → byteAt (bareFrame lay h c t r) k = 0#8 := by
  obtain ⟨h4, h42, hf, hp, -, -⟩ := Layout.wf_parts hw
  have hin : ∀ d ∈ lay.fields, ∀ k ∈ d.bytes, 3 ≤ k ∧ k + 1 < lay.len := by
    intro d hd k hk
    obtain ⟨-, h2, h3, -⟩ := Field.wf_width (hf d hd)
    rw [Field.mem_bytes] at hk; omega
  have hl : ∀ (g : List Byte), g.length = lay.len → ∀ d ∈ lay.fields, d.off + d.w ≤ g.length := by
    intro g hg d hd
    obtain ⟨-, h2, h3, -⟩ := Field.wf_width (hf d hd)
    omega
  have hout : ∀ k, k + 1 < lay.len → (∀ d ∈ lay.fields, k ∉ d.bytes) →
      byteAt (bareFrame lay h c t r) k =
        byteAt ((((List.replicate lay.len 0#8).set 0 h).set 1 c).set 2 r.fid) k := by
    intro k hk hn
    unfold bareFrame
    rw [byteAt_set, if_neg (by omega)]
    exact byteAt_writeFields_out r _ (hl _ (by simp)) hn
  refine ⟨?_, ?_, ?_, ?_, ?_, ?_⟩
  · rw [hout 0 (by omega) fun d hd hk => by have := hin d hd 0 hk; omega]
    simp [byteAt_set]; omega
  · rw [hout 1 (by omega) fun d hd hk => by have := hin d hd 1 hk; omega]
    simp [byteAt_set]; omega
  · rw [hout 2 (by omega) fun d hd hk => by have := hin d hd 2 hk; omega]
    simp [byteAt_set]; omega
  · unfold bareFrame; rw [byteAt_set, if_pos ⟨rfl, by simp; omega⟩]
  · intro d hd k hk
    have := hin d hd k hk
    unfold bareFrame
    rw [byteAt_set, if_neg (by omega), byteAt_writeFields r _ (hl _ (by simp)) hp hd hk]
    apply byteAt_writeField_congr r (hl _ (by simp) d hd) (by simp)
    rw [byteAt_set, if_neg (by omega), byteAt_set, if_neg (by omega), byteAt_set, if_neg (by omega)]
  · intro k h3 hk hn
    rw [hout k hk hn, byteAt_set, if_neg (by omega), byteAt_set, if_neg (by omega), byteAt_set, if_neg (by omega),
      byteAt_replicate]

/-- Where a parity write can fall: a byte of `3 .. L-2` in no field, or one bit outside the mask of the field there. -/
theorem byteAt_writeParity {L : Nat} {fs : List Field} {par : Parity} {f : List Byte}
    (h : Parity.wf L fs par = true) (hl : f.length = L) (k : Nat) :
    (k < 3 ∨ L ≤ k + 1 → byteAt (writeParity par f) k = byteAt f k) ∧
      (∀ d ∈ fs, k ∈ d.bytes → byteAt (writeParity par f) k &&& d.mask = byteAt f k &&& d.mask ∧
        (d.w ≠ 1 → byteAt (writeParity par f) k = byteAt f k)) := by
  cases par with
  | none => exact ⟨fun _ => rfl, fun d _ _ => ⟨rfl, fun _ => rfl⟩⟩
  | stub p =>
    obtain ⟨h1, h2, h3⟩ := Parity.wf_stub h
    have hne : ∀ d ∈ fs, k ∈ d.bytes → k ≠ p := fun d hd hk e => h3 d hd (e ▸ hk)
    refine ⟨fun _ => ?_, fun d hd hk => ?_⟩ <;> simp only [writeParity]
    · rw [byteAt_set, if_neg (by omega)]
    · rw [byteAt_set, if_neg (fun e => hne d hd hk e.1)]; exact ⟨rfl, fun _ => rfl⟩
  | byteXor p lo hi =>
    obtain ⟨h1, h2, -, -, -, -, h3⟩ := Parity.wf_byteXor h
    have hne : ∀ d ∈ fs, k ∈ d.bytes → k ≠ p := fun d hd hk e => h3 d hd (e ▸ hk)
    refine ⟨fun _ => ?_, fun d hd hk => ?_⟩ <;> simp only [writeParity]
    · rw [byteAt_set, if_neg (by omega)]
    · rw [byteAt_set, if_neg (fun e => hne d hd hk e.1)]; exact ⟨rfl, fun _ => rfl⟩
  | bitXor p b lo hi =>
    obtain ⟨h1, h2, hb, -, -, -, h3⟩ := Parity.wf_bitXor h
    refine ⟨fun _ => ?_, fun d hd hk => ?_⟩ <;> simp only [writeParity]
    · rw [byteAt_set, if_neg (by omega)]
    · by_cases hkp : k = p
      · subst hkp
        rcases h3 d hd with hx | ⟨hw, hm⟩
        · exact absurd hk hx
        · refine ⟨?_, fun hn => absurd hw hn⟩
          rw [byteAt_set, if_pos ⟨rfl, by omega⟩]
          apply BitVec.eq_of_getLsbD_eq; intro i _
          rw [BitVec.getLsbD_and, BitVec.getLsbD_and, getLsbD_withBit _ hb]
          by_cases hi : i = b
          · subst hi; simp [hm]
          · rw [if_neg hi]
      · rw [byteAt_set, if_neg (by tauto)]; exact ⟨rfl, fun _ => rfl⟩

/-- The bytes of an encoder's frame (R141, R135). -/
theorem encodeFrame_bytes {lay : Layout} (hw : lay.wf = true) (h c t : Byte) (r : Record) :
    byteAt (encodeFrame lay h c t r) 0 = h ∧ byteAt (encodeFrame lay h c t r) 1 = c ∧
      byteAt (encodeFrame lay h c t r) 2 = r.fid ∧ byteAt (encodeFrame lay h c t r) (lay.len - 1) = t ∧
      checkParity lay.parity (encodeFrame lay h c t r) = true ∧
      (∀ d ∈ lay.fields, d.w ≠ 1 →
        memRead (encodeFrame lay h c t r) d.off d.w = (r.get d.name % (2 ^ (8 * d.w) : Nat)).toNat) ∧
      (∀ d ∈ lay.fields, d.w = 1 →
        byteAt (encodeFrame lay h c t r) d.off &&& d.mask = BitVec.ofInt 8 (r.get d.name) &&& d.mask) := by
  obtain ⟨h4, h42, hf, hp, -, hpar⟩ := Layout.wf_parts hw
  obtain ⟨b0, b1, b2, bt, bf, -⟩ := byteAt_bareFrame hw h c t r
  have hb := fun k => byteAt_writeParity hpar (bareFrame_length lay h c t r) k
  simp only [encodeFrame_eq]
  refine ⟨?_, ?_, ?_, ?_, checkParity_writeParity hpar (by simp), fun d hd hd1 => ?_, fun d hd hd1 => ?_⟩
  · rw [(hb 0).1 (by omega), b0]
  · rw [(hb 1).1 (by omega), b1]
  · rw [(hb 2).1 (by omega), b2]
  · rw [(hb _).1 (by omega), bt]
  · obtain ⟨-, h2, h3, -⟩ := Field.wf_width (hf d hd)
    have hfit : d.off + d.w ≤ (List.replicate lay.len 0#8).length := by simp; omega
    have e : memRead (writeParity lay.parity (bareFrame lay h c t r)) d.off d.w =
        memRead (memWrite (List.replicate lay.len 0#8) d.off d.w (r.get d.name % (2 ^ (8 * d.w) : Nat)).toNat) d.off d.w := by
      apply memRead_congr
      intro k hk
      have hm : d.off + k ∈ d.bytes := by rw [Field.mem_bytes]; omega
      rw [((hb _).2 d hd hm).2 hd1, bf d hd _ hm]
      simp only [writeField, if_neg hd1]
    rw [e, memRead_memWrite hfit]
    have hpow : (256 : Nat) ^ d.w = 2 ^ (8 * d.w) := by rw [pow_mul]; norm_num
    rw [hpow]
    apply Nat.mod_eq_of_lt
    have h1 := Int.emod_lt_of_pos (r.get d.name) (b := ((2 ^ (8 * d.w) : Nat) : Int)) (by positivity)
    have h0 := Int.emod_nonneg (r.get d.name) (b := ((2 ^ (8 * d.w) : Nat) : Int)) (by positivity)
    omega
  · obtain ⟨-, h2, h3, -⟩ := Field.wf_width (hf d hd)
    have hm : d.off ∈ d.bytes := by rw [Field.mem_bytes]; omega
    rw [((hb _).2 d hd hm).1, bf d hd _ hm]
    simp only [writeField, if_pos hd1]
    rw [byteAt_set, if_pos ⟨rfl, by simp; omega⟩, byteAt_replicate]
    have : BitVec.ofNat 8 (r.get d.name % (2 ^ (8 * d.w) : Nat)).toNat = BitVec.ofInt 8 (r.get d.name) := by
      rw [hd1]
      apply BitVec.eq_of_toNat_eq
      simp [BitVec.toNat_ofInt]
      omega
    rw [this]
    simp [BitVec.and_assoc]

/-- A field that fits reads back (R142). -/
theorem readField_encode {lay : Layout} (hw : lay.wf = true) (h c t : Byte) (r : Record) {d : Field}
    (hd : d ∈ lay.fields) (hfit : FieldFits d (r.get d.name)) :
    readField (encodeFrame lay h c t r) d = r.get d.name := by
  obtain ⟨h4, h42, hf, hp, -, hpar⟩ := Layout.wf_parts hw
  obtain ⟨e0, e1, e2, et, ec, ew, e8⟩ := encodeFrame_bytes hw h c t r
  obtain ⟨hwid, -, -, -⟩ := Field.wf_width (hf d hd)
  obtain ⟨hr, hm⟩ := hfit
  have hv : (if d.w = 1 then memRead (encodeFrame lay h c t r) d.off d.w &&& d.mask.toNat
      else memRead (encodeFrame lay h c t r) d.off d.w) = (r.get d.name % (2 ^ (8 * d.w) : Nat)).toNat := by
    split
    · rename_i h1
      rw [h1, memRead_succ, memRead_zero, zero_mul, zero_add, Nat.add_zero, ← BitVec.toNat_and, e8 d hd h1, hm h1,
        BitVec.toNat_ofInt]
    · exact ew d hd ‹_›
  unfold readField
  simp only [hv]
  have h0 := Int.emod_nonneg (r.get d.name) (b := ((2 ^ (8 * d.w) : Nat) : Int)) (by positivity)
  split
  · rename_i hs
    rw [if_pos hs] at hr
    have : BitVec.ofNat (8 * d.w) (r.get d.name % (2 ^ (8 * d.w) : Nat)).toNat = BitVec.ofInt (8 * d.w) (r.get d.name) := by
      apply BitVec.eq_of_toNat_eq
      rw [BitVec.toNat_ofNat, BitVec.toNat_ofInt]
      apply Nat.mod_eq_of_lt
      have := Int.emod_lt_of_pos (r.get d.name) (b := ((2 ^ (8 * d.w) : Nat) : Int)) (by positivity)
      omega
    rw [this, BitVec.toInt_ofInt]
    obtain ⟨hr1, hr2⟩ := hr
    rcases hwid with hw' | hw' | hw' | hw' <;> rw [hw'] at hr1 hr2 ⊢ <;> norm_num at hr1 hr2 ⊢ <;>
      exact Int.bmod_eq_of_le (by omega) (by omega)
  · rename_i hs
    rw [if_neg hs] at hr
    rw [Int.emod_eq_of_lt hr.1 hr.2]; omega

/-! ### Layouts of a configuration (R8) -/

theorem Config.reqLayout_wf {c : Config} (h : c.wf = true) (t : ReqType) : (c.reqLayout.get t).wf = true := by
  simp [Config.wf, Config.layoutsOk, ReqType.all] at h
  cases t <;> tauto

theorem Config.respLayout_wf {c : Config} (h : c.wf = true) (t : RespType) : (c.respLayout t).wf = true := by
  simp [Config.wf, Config.layoutsOk] at h
  cases t <;> simp only [Config.respLayout] <;> tauto

end Sys2Proof.Machine
end

