-- ==== Sys2Proof/Laws/Frame.lean ====
section
/-! SUPPORT. What each shared operation leaves unchanged: one lemma per untouched field. -/

namespace Sys2Proof.Machine

/-- A per-axis loop leaves a component as it is when each of its rounds does. -/
theorem forAxes_keeps {β : Type} (p : State → β) (f : Axis → State → State) (h : ∀ i s, p (f i s) = p s) (s : State) :
    p (s.forAxes f) = p s := by
  simp [State.forAxes, h]


/-! ### stopAxis -/

@[simp] theorem stopAxis_cfg (i : Axis) (s : State) : (stopAxis i s).cfg = s.cfg := by
  simp [stopAxis]
@[simp] theorem stopAxis_fsm (i : Axis) (s : State) : (stopAxis i s).fsm = s.fsm := by
  simp [stopAxis]
@[simp] theorem stopAxis_seg (i : Axis) (s : State) : (stopAxis i s).seg = s.seg := by
  simp [stopAxis]
@[simp] theorem stopAxis_q (i : Axis) (s : State) : (stopAxis i s).q = s.q := by
  simp [stopAxis]
@[simp] theorem stopAxis_enc (i : Axis) (s : State) : (stopAxis i s).enc = s.enc := by
  simp [stopAxis]
@[simp] theorem stopAxis_ctl (i : Axis) (s : State) : (stopAxis i s).ctl = s.ctl := by
  simp [stopAxis]
@[simp] theorem stopAxis_rt (i : Axis) (s : State) : (stopAxis i s).rt = s.rt := by
  simp [stopAxis]
@[simp] theorem stopAxis_rf (i : Axis) (s : State) : (stopAxis i s).rf = s.rf := by
  simp [stopAxis]
@[simp] theorem stopAxis_spi (i : Axis) (s : State) : (stopAxis i s).spi = s.spi := by
  simp [stopAxis]
@[simp] theorem stopAxis_cnt (i : Axis) (s : State) : (stopAxis i s).cnt = s.cnt := by
  simp [stopAxis]
@[simp] theorem stopAxis_port (i : Axis) (s : State) : (stopAxis i s).port = s.port := by
  simp [stopAxis]
@[simp] theorem stopAxis_result (i : Axis) (s : State) : (stopAxis i s).result = s.result := by
  simp [stopAxis]
@[simp] theorem stopAxis_free (i : Axis) (s : State) : (stopAxis i s).free = s.free := by
  simp [stopAxis]

/-! ### beginAxis -/

@[simp] theorem beginAxis_cfg (g : MoveSegment) (b : Bool) (i : Axis) (s : State) : (beginAxis g b i s).cfg = s.cfg := by
  simp [beginAxis]
@[simp] theorem beginAxis_fsm (g : MoveSegment) (b : Bool) (i : Axis) (s : State) : (beginAxis g b i s).fsm = s.fsm := by
  simp [beginAxis]
@[simp] theorem beginAxis_seg (g : MoveSegment) (b : Bool) (i : Axis) (s : State) : (beginAxis g b i s).seg = s.seg := by
  simp [beginAxis]
@[simp] theorem beginAxis_q (g : MoveSegment) (b : Bool) (i : Axis) (s : State) : (beginAxis g b i s).q = s.q := by
  simp [beginAxis]
@[simp] theorem beginAxis_enc (g : MoveSegment) (b : Bool) (i : Axis) (s : State) : (beginAxis g b i s).enc = s.enc := by
  simp [beginAxis]
@[simp] theorem beginAxis_ctl (g : MoveSegment) (b : Bool) (i : Axis) (s : State) : (beginAxis g b i s).ctl = s.ctl := by
  simp [beginAxis]
@[simp] theorem beginAxis_rt (g : MoveSegment) (b : Bool) (i : Axis) (s : State) : (beginAxis g b i s).rt = s.rt := by
  simp [beginAxis]
@[simp] theorem beginAxis_rf (g : MoveSegment) (b : Bool) (i : Axis) (s : State) : (beginAxis g b i s).rf = s.rf := by
  simp [beginAxis]
@[simp] theorem beginAxis_spi (g : MoveSegment) (b : Bool) (i : Axis) (s : State) : (beginAxis g b i s).spi = s.spi := by
  simp [beginAxis]
@[simp] theorem beginAxis_cnt (g : MoveSegment) (b : Bool) (i : Axis) (s : State) : (beginAxis g b i s).cnt = s.cnt := by
  simp [beginAxis]
@[simp] theorem beginAxis_port (g : MoveSegment) (b : Bool) (i : Axis) (s : State) : (beginAxis g b i s).port = s.port := by
  simp [beginAxis]
@[simp] theorem beginAxis_result (g : MoveSegment) (b : Bool) (i : Axis) (s : State) : (beginAxis g b i s).result = s.result := by
  simp [beginAxis]
@[simp] theorem beginAxis_free (g : MoveSegment) (b : Bool) (i : Axis) (s : State) : (beginAxis g b i s).free = s.free := by
  simp [beginAxis]

/-! ### closePulse -/

@[simp] theorem closePulse_cfg (i : Axis) (s : State) : (closePulse i s).cfg = s.cfg := by
  unfold closePulse; dsimp only; split <;> simp
@[simp] theorem closePulse_fsm (i : Axis) (s : State) : (closePulse i s).fsm = s.fsm := by
  unfold closePulse; dsimp only; split <;> simp
@[simp] theorem closePulse_seg (i : Axis) (s : State) : (closePulse i s).seg = s.seg := by
  unfold closePulse; dsimp only; split <;> simp
@[simp] theorem closePulse_q (i : Axis) (s : State) : (closePulse i s).q = s.q := by
  unfold closePulse; dsimp only; split <;> simp
@[simp] theorem closePulse_enc (i : Axis) (s : State) : (closePulse i s).enc = s.enc := by
  unfold closePulse; dsimp only; split <;> simp
@[simp] theorem closePulse_ctl (i : Axis) (s : State) : (closePulse i s).ctl = s.ctl := by
  unfold closePulse; dsimp only; split <;> simp
@[simp] theorem closePulse_rt (i : Axis) (s : State) : (closePulse i s).rt = s.rt := by
  unfold closePulse; dsimp only; split <;> simp
@[simp] theorem closePulse_rf (i : Axis) (s : State) : (closePulse i s).rf = s.rf := by
  unfold closePulse; dsimp only; split <;> simp
@[simp] theorem closePulse_spi (i : Axis) (s : State) : (closePulse i s).spi = s.spi := by
  unfold closePulse; dsimp only; split <;> simp
@[simp] theorem closePulse_cnt (i : Axis) (s : State) : (closePulse i s).cnt = s.cnt := by
  unfold closePulse; dsimp only; split <;> simp
@[simp] theorem closePulse_port (i : Axis) (s : State) : (closePulse i s).port = s.port := by
  unfold closePulse; dsimp only; split <;> simp
@[simp] theorem closePulse_result (i : Axis) (s : State) : (closePulse i s).result = s.result := by
  unfold closePulse; dsimp only; split <;> simp
@[simp] theorem closePulse_free (i : Axis) (s : State) : (closePulse i s).free = s.free := by
  unfold closePulse; dsimp only; split <;> simp

/-! ### accumulate -/

@[simp] theorem accumulate_cfg (i : Axis) (s : State) : (accumulate i s).cfg = s.cfg := by
  unfold accumulate; dsimp only; split <;> [split <;> simp; rfl]
@[simp] theorem accumulate_fsm (i : Axis) (s : State) : (accumulate i s).fsm = s.fsm := by
  unfold accumulate; dsimp only; split <;> [split <;> simp; rfl]
@[simp] theorem accumulate_seg (i : Axis) (s : State) : (accumulate i s).seg = s.seg := by
  unfold accumulate; dsimp only; split <;> [split <;> simp; rfl]
@[simp] theorem accumulate_q (i : Axis) (s : State) : (accumulate i s).q = s.q := by
  unfold accumulate; dsimp only; split <;> [split <;> simp; rfl]
@[simp] theorem accumulate_enc (i : Axis) (s : State) : (accumulate i s).enc = s.enc := by
  unfold accumulate; dsimp only; split <;> [split <;> simp; rfl]
@[simp] theorem accumulate_ctl (i : Axis) (s : State) : (accumulate i s).ctl = s.ctl := by
  unfold accumulate; dsimp only; split <;> [split <;> simp; rfl]
@[simp] theorem accumulate_rt (i : Axis) (s : State) : (accumulate i s).rt = s.rt := by
  unfold accumulate; dsimp only; split <;> [split <;> simp; rfl]
@[simp] theorem accumulate_rf (i : Axis) (s : State) : (accumulate i s).rf = s.rf := by
  unfold accumulate; dsimp only; split <;> [split <;> simp; rfl]
@[simp] theorem accumulate_spi (i : Axis) (s : State) : (accumulate i s).spi = s.spi := by
  unfold accumulate; dsimp only; split <;> [split <;> simp; rfl]
@[simp] theorem accumulate_cnt (i : Axis) (s : State) : (accumulate i s).cnt = s.cnt := by
  unfold accumulate; dsimp only; split <;> [split <;> simp; rfl]
@[simp] theorem accumulate_port (i : Axis) (s : State) : (accumulate i s).port = s.port := by
  unfold accumulate; dsimp only; split <;> [split <;> simp; rfl]
@[simp] theorem accumulate_result (i : Axis) (s : State) : (accumulate i s).result = s.result := by
  unfold accumulate; dsimp only; split <;> [split <;> simp; rfl]
@[simp] theorem accumulate_free (i : Axis) (s : State) : (accumulate i s).free = s.free := by
  unfold accumulate; dsimp only; split <;> [split <;> simp; rfl]

/-! ### encoderUpdate -/

@[simp] theorem encoderUpdate_cfg (r : PerAxis U32) (i : Axis) (s : State) : (encoderUpdate r i s).cfg = s.cfg := by
  simp [encoderUpdate]
@[simp] theorem encoderUpdate_fsm (r : PerAxis U32) (i : Axis) (s : State) : (encoderUpdate r i s).fsm = s.fsm := by
  simp [encoderUpdate]
@[simp] theorem encoderUpdate_seg (r : PerAxis U32) (i : Axis) (s : State) : (encoderUpdate r i s).seg = s.seg := by
  simp [encoderUpdate]
@[simp] theorem encoderUpdate_q (r : PerAxis U32) (i : Axis) (s : State) : (encoderUpdate r i s).q = s.q := by
  simp [encoderUpdate]
@[simp] theorem encoderUpdate_ax (r : PerAxis U32) (i : Axis) (s : State) : (encoderUpdate r i s).ax = s.ax := by
  simp [encoderUpdate]
@[simp] theorem encoderUpdate_pin (r : PerAxis U32) (i : Axis) (s : State) : (encoderUpdate r i s).pin = s.pin := by
  simp [encoderUpdate]
@[simp] theorem encoderUpdate_ctl (r : PerAxis U32) (i : Axis) (s : State) : (encoderUpdate r i s).ctl = s.ctl := by
  simp [encoderUpdate]
@[simp] theorem encoderUpdate_rt (r : PerAxis U32) (i : Axis) (s : State) : (encoderUpdate r i s).rt = s.rt := by
  simp [encoderUpdate]
@[simp] theorem encoderUpdate_rf (r : PerAxis U32) (i : Axis) (s : State) : (encoderUpdate r i s).rf = s.rf := by
  simp [encoderUpdate]
@[simp] theorem encoderUpdate_spi (r : PerAxis U32) (i : Axis) (s : State) : (encoderUpdate r i s).spi = s.spi := by
  simp [encoderUpdate]
@[simp] theorem encoderUpdate_cnt (r : PerAxis U32) (i : Axis) (s : State) : (encoderUpdate r i s).cnt = s.cnt := by
  simp [encoderUpdate]
@[simp] theorem encoderUpdate_port (r : PerAxis U32) (i : Axis) (s : State) : (encoderUpdate r i s).port = s.port := by
  simp [encoderUpdate]
@[simp] theorem encoderUpdate_result (r : PerAxis U32) (i : Axis) (s : State) : (encoderUpdate r i s).result = s.result := by
  simp [encoderUpdate]
@[simp] theorem encoderUpdate_trace (r : PerAxis U32) (i : Axis) (s : State) : (encoderUpdate r i s).trace = s.trace := by
  simp [encoderUpdate]
@[simp] theorem encoderUpdate_free (r : PerAxis U32) (i : Axis) (s : State) : (encoderUpdate r i s).free = s.free := by
  simp [encoderUpdate]

/-! ### errorUpdate -/

@[simp] theorem errorUpdate_cfg (i : Axis) (s : State) : (errorUpdate i s).cfg = s.cfg := by
  simp [errorUpdate]
@[simp] theorem errorUpdate_fsm (i : Axis) (s : State) : (errorUpdate i s).fsm = s.fsm := by
  simp [errorUpdate]
@[simp] theorem errorUpdate_seg (i : Axis) (s : State) : (errorUpdate i s).seg = s.seg := by
  simp [errorUpdate]
@[simp] theorem errorUpdate_q (i : Axis) (s : State) : (errorUpdate i s).q = s.q := by
  simp [errorUpdate]
@[simp] theorem errorUpdate_pin (i : Axis) (s : State) : (errorUpdate i s).pin = s.pin := by
  simp [errorUpdate]
@[simp] theorem errorUpdate_enc (i : Axis) (s : State) : (errorUpdate i s).enc = s.enc := by
  simp [errorUpdate]
@[simp] theorem errorUpdate_ctl (i : Axis) (s : State) : (errorUpdate i s).ctl = s.ctl := by
  simp [errorUpdate]
@[simp] theorem errorUpdate_rt (i : Axis) (s : State) : (errorUpdate i s).rt = s.rt := by
  simp [errorUpdate]
@[simp] theorem errorUpdate_rf (i : Axis) (s : State) : (errorUpdate i s).rf = s.rf := by
  simp [errorUpdate]
@[simp] theorem errorUpdate_spi (i : Axis) (s : State) : (errorUpdate i s).spi = s.spi := by
  simp [errorUpdate]
@[simp] theorem errorUpdate_cnt (i : Axis) (s : State) : (errorUpdate i s).cnt = s.cnt := by
  simp [errorUpdate]
@[simp] theorem errorUpdate_port (i : Axis) (s : State) : (errorUpdate i s).port = s.port := by
  simp [errorUpdate]
@[simp] theorem errorUpdate_result (i : Axis) (s : State) : (errorUpdate i s).result = s.result := by
  simp [errorUpdate]
@[simp] theorem errorUpdate_trace (i : Axis) (s : State) : (errorUpdate i s).trace = s.trace := by
  simp [errorUpdate]
@[simp] theorem errorUpdate_free (i : Axis) (s : State) : (errorUpdate i s).free = s.free := by
  simp [errorUpdate]

/-! ### controlUpdate -/

@[simp] theorem controlUpdate_cfg (m : Option Axis) (d : PerAxis Bool) (i : Axis) (s : State) : (controlUpdate m d i s).cfg = s.cfg := by
  unfold controlUpdate; dsimp only; split <;> simp
@[simp] theorem controlUpdate_fsm (m : Option Axis) (d : PerAxis Bool) (i : Axis) (s : State) : (controlUpdate m d i s).fsm = s.fsm := by
  unfold controlUpdate; dsimp only; split <;> simp
@[simp] theorem controlUpdate_seg (m : Option Axis) (d : PerAxis Bool) (i : Axis) (s : State) : (controlUpdate m d i s).seg = s.seg := by
  unfold controlUpdate; dsimp only; split <;> simp
@[simp] theorem controlUpdate_q (m : Option Axis) (d : PerAxis Bool) (i : Axis) (s : State) : (controlUpdate m d i s).q = s.q := by
  unfold controlUpdate; dsimp only; split <;> simp
@[simp] theorem controlUpdate_pin (m : Option Axis) (d : PerAxis Bool) (i : Axis) (s : State) : (controlUpdate m d i s).pin = s.pin := by
  unfold controlUpdate; dsimp only; split <;> simp
@[simp] theorem controlUpdate_enc (m : Option Axis) (d : PerAxis Bool) (i : Axis) (s : State) : (controlUpdate m d i s).enc = s.enc := by
  unfold controlUpdate; dsimp only; split <;> simp
@[simp] theorem controlUpdate_ctl (m : Option Axis) (d : PerAxis Bool) (i : Axis) (s : State) : (controlUpdate m d i s).ctl = s.ctl := by
  unfold controlUpdate; dsimp only; split <;> simp
@[simp] theorem controlUpdate_rt (m : Option Axis) (d : PerAxis Bool) (i : Axis) (s : State) : (controlUpdate m d i s).rt = s.rt := by
  unfold controlUpdate; dsimp only; split <;> simp
@[simp] theorem controlUpdate_rf (m : Option Axis) (d : PerAxis Bool) (i : Axis) (s : State) : (controlUpdate m d i s).rf = s.rf := by
  unfold controlUpdate; dsimp only; split <;> simp
@[simp] theorem controlUpdate_spi (m : Option Axis) (d : PerAxis Bool) (i : Axis) (s : State) : (controlUpdate m d i s).spi = s.spi := by
  unfold controlUpdate; dsimp only; split <;> simp
@[simp] theorem controlUpdate_cnt (m : Option Axis) (d : PerAxis Bool) (i : Axis) (s : State) : (controlUpdate m d i s).cnt = s.cnt := by
  unfold controlUpdate; dsimp only; split <;> simp
@[simp] theorem controlUpdate_port (m : Option Axis) (d : PerAxis Bool) (i : Axis) (s : State) : (controlUpdate m d i s).port = s.port := by
  unfold controlUpdate; dsimp only; split <;> simp
@[simp] theorem controlUpdate_result (m : Option Axis) (d : PerAxis Bool) (i : Axis) (s : State) : (controlUpdate m d i s).result = s.result := by
  unfold controlUpdate; dsimp only; split <;> simp
@[simp] theorem controlUpdate_trace (m : Option Axis) (d : PerAxis Bool) (i : Axis) (s : State) : (controlUpdate m d i s).trace = s.trace := by
  unfold controlUpdate; dsimp only; split <;> simp
@[simp] theorem controlUpdate_free (m : Option Axis) (d : PerAxis Bool) (i : Axis) (s : State) : (controlUpdate m d i s).free = s.free := by
  unfold controlUpdate; dsimp only; split <;> simp

/-! ### stopAllAxes -/

@[simp] theorem stopAllAxes_cfg (s : State) : (stopAllAxes s).cfg = s.cfg := by
  simp [stopAllAxes, State.forAxes]
@[simp] theorem stopAllAxes_fsm (s : State) : (stopAllAxes s).fsm = s.fsm := by
  simp [stopAllAxes, State.forAxes]
@[simp] theorem stopAllAxes_q (s : State) : (stopAllAxes s).q = s.q := by
  simp [stopAllAxes, State.forAxes]
@[simp] theorem stopAllAxes_enc (s : State) : (stopAllAxes s).enc = s.enc := by
  simp [stopAllAxes, State.forAxes]
@[simp] theorem stopAllAxes_ctl (s : State) : (stopAllAxes s).ctl = s.ctl := by
  simp [stopAllAxes, State.forAxes]
@[simp] theorem stopAllAxes_rt (s : State) : (stopAllAxes s).rt = s.rt := by
  simp [stopAllAxes, State.forAxes]
@[simp] theorem stopAllAxes_rf (s : State) : (stopAllAxes s).rf = s.rf := by
  simp [stopAllAxes, State.forAxes]
@[simp] theorem stopAllAxes_spi (s : State) : (stopAllAxes s).spi = s.spi := by
  simp [stopAllAxes, State.forAxes]
@[simp] theorem stopAllAxes_cnt (s : State) : (stopAllAxes s).cnt = s.cnt := by
  simp [stopAllAxes, State.forAxes]
@[simp] theorem stopAllAxes_port (s : State) : (stopAllAxes s).port = s.port := by
  simp [stopAllAxes, State.forAxes]
@[simp] theorem stopAllAxes_result (s : State) : (stopAllAxes s).result = s.result := by
  simp [stopAllAxes, State.forAxes]
@[simp] theorem stopAllAxes_free (s : State) : (stopAllAxes s).free = s.free := by
  simp [stopAllAxes, State.forAxes]

/-! ### beginSegment -/

@[simp] theorem beginSegment_cfg (g : MoveSegment) (b : Bool) (s : State) : (beginSegment g b s).cfg = s.cfg := by
  simp [beginSegment, State.forAxes]
@[simp] theorem beginSegment_fsm (g : MoveSegment) (b : Bool) (s : State) : (beginSegment g b s).fsm = s.fsm := by
  simp [beginSegment, State.forAxes]
@[simp] theorem beginSegment_q (g : MoveSegment) (b : Bool) (s : State) : (beginSegment g b s).q = s.q := by
  simp [beginSegment, State.forAxes]
@[simp] theorem beginSegment_enc (g : MoveSegment) (b : Bool) (s : State) : (beginSegment g b s).enc = s.enc := by
  simp [beginSegment, State.forAxes]
@[simp] theorem beginSegment_ctl (g : MoveSegment) (b : Bool) (s : State) : (beginSegment g b s).ctl = s.ctl := by
  simp [beginSegment, State.forAxes]
@[simp] theorem beginSegment_rt (g : MoveSegment) (b : Bool) (s : State) : (beginSegment g b s).rt = s.rt := by
  simp [beginSegment, State.forAxes]
@[simp] theorem beginSegment_rf (g : MoveSegment) (b : Bool) (s : State) : (beginSegment g b s).rf = s.rf := by
  simp [beginSegment, State.forAxes]
@[simp] theorem beginSegment_spi (g : MoveSegment) (b : Bool) (s : State) : (beginSegment g b s).spi = s.spi := by
  simp [beginSegment, State.forAxes]
@[simp] theorem beginSegment_cnt (g : MoveSegment) (b : Bool) (s : State) : (beginSegment g b s).cnt = s.cnt := by
  simp [beginSegment, State.forAxes]
@[simp] theorem beginSegment_port (g : MoveSegment) (b : Bool) (s : State) : (beginSegment g b s).port = s.port := by
  simp [beginSegment, State.forAxes]
@[simp] theorem beginSegment_result (g : MoveSegment) (b : Bool) (s : State) : (beginSegment g b s).result = s.result := by
  simp [beginSegment, State.forAxes]
@[simp] theorem beginSegment_free (g : MoveSegment) (b : Bool) (s : State) : (beginSegment g b s).free = s.free := by
  simp [beginSegment, State.forAxes]

/-! ### beginNext -/

@[simp] theorem beginNext_cfg (b : Bool) (s : State) : (beginNext b s).cfg = s.cfg := by
  simp [beginNext]
@[simp] theorem beginNext_fsm (b : Bool) (s : State) : (beginNext b s).fsm = s.fsm := by
  simp [beginNext]
@[simp] theorem beginNext_enc (b : Bool) (s : State) : (beginNext b s).enc = s.enc := by
  simp [beginNext]
@[simp] theorem beginNext_ctl (b : Bool) (s : State) : (beginNext b s).ctl = s.ctl := by
  simp [beginNext]
@[simp] theorem beginNext_rt (b : Bool) (s : State) : (beginNext b s).rt = s.rt := by
  simp [beginNext]
@[simp] theorem beginNext_rf (b : Bool) (s : State) : (beginNext b s).rf = s.rf := by
  simp [beginNext]
@[simp] theorem beginNext_spi (b : Bool) (s : State) : (beginNext b s).spi = s.spi := by
  simp [beginNext]
@[simp] theorem beginNext_cnt (b : Bool) (s : State) : (beginNext b s).cnt = s.cnt := by
  simp [beginNext]
@[simp] theorem beginNext_port (b : Bool) (s : State) : (beginNext b s).port = s.port := by
  simp [beginNext]
@[simp] theorem beginNext_result (b : Bool) (s : State) : (beginNext b s).result = s.result := by
  simp [beginNext]
@[simp] theorem beginNext_free (b : Bool) (s : State) : (beginNext b s).free = s.free := by
  simp [beginNext]

/-! ### startMove -/

@[simp] theorem startMove_cfg (s : State) : (startMove s).cfg = s.cfg := by
  unfold startMove; split <;> [simp; (split <;> simp)]
@[simp] theorem startMove_enc (s : State) : (startMove s).enc = s.enc := by
  unfold startMove; split <;> [simp; (split <;> simp)]
@[simp] theorem startMove_ctl (s : State) : (startMove s).ctl = s.ctl := by
  unfold startMove; split <;> [simp; (split <;> simp)]
@[simp] theorem startMove_rt (s : State) : (startMove s).rt = s.rt := by
  unfold startMove; split <;> [simp; (split <;> simp)]
@[simp] theorem startMove_rf (s : State) : (startMove s).rf = s.rf := by
  unfold startMove; split <;> [simp; (split <;> simp)]
@[simp] theorem startMove_spi (s : State) : (startMove s).spi = s.spi := by
  unfold startMove; split <;> [simp; (split <;> simp)]
@[simp] theorem startMove_cnt (s : State) : (startMove s).cnt = s.cnt := by
  unfold startMove; split <;> [simp; (split <;> simp)]
@[simp] theorem startMove_port (s : State) : (startMove s).port = s.port := by
  unfold startMove; split <;> [simp; (split <;> simp)]
@[simp] theorem startMove_result (s : State) : (startMove s).result = s.result := by
  unfold startMove; split <;> [simp; (split <;> simp)]
@[simp] theorem startMove_free (s : State) : (startMove s).free = s.free := by
  unfold startMove; split <;> [simp; (split <;> simp)]

/-- A push leaves everything but the FIFO as it is (R201). -/
theorem push_ok_eq {f : Option (List Byte)} {s t : State} (h : s.push f = .ok t) : t = s.setRf t.rf := by
  unfold State.push at h
  split at h
  · cases h
  · split at h
    · cases h
    · split at h
      · cases h
      · cases h; rfl

/-- `push_resp` writes the FIFO or a counter (R202). -/
theorem pushResp_eq (f : List Byte) (s : State) :
    s.pushResp f = s.countRespDrop ∨ s.pushResp f = s.setRf (s.pushResp f).rf := by
  unfold State.pushResp
  split
  · exact .inr (push_ok_eq ‹_›)
  · exact .inl rfl

/-! ### State.pushResp -/

@[simp] theorem State.pushResp_cfg (f : List Byte) (s : State) : (s.pushResp f).cfg = s.cfg := by
  rcases pushResp_eq f s with h | h <;> rw [h] <;> rfl
@[simp] theorem State.pushResp_fsm (f : List Byte) (s : State) : (s.pushResp f).fsm = s.fsm := by
  rcases pushResp_eq f s with h | h <;> rw [h] <;> rfl
@[simp] theorem State.pushResp_seg (f : List Byte) (s : State) : (s.pushResp f).seg = s.seg := by
  rcases pushResp_eq f s with h | h <;> rw [h] <;> rfl
@[simp] theorem State.pushResp_q (f : List Byte) (s : State) : (s.pushResp f).q = s.q := by
  rcases pushResp_eq f s with h | h <;> rw [h] <;> rfl
@[simp] theorem State.pushResp_ax (f : List Byte) (s : State) : (s.pushResp f).ax = s.ax := by
  rcases pushResp_eq f s with h | h <;> rw [h] <;> rfl
@[simp] theorem State.pushResp_pin (f : List Byte) (s : State) : (s.pushResp f).pin = s.pin := by
  rcases pushResp_eq f s with h | h <;> rw [h] <;> rfl
@[simp] theorem State.pushResp_enc (f : List Byte) (s : State) : (s.pushResp f).enc = s.enc := by
  rcases pushResp_eq f s with h | h <;> rw [h] <;> rfl
@[simp] theorem State.pushResp_ctl (f : List Byte) (s : State) : (s.pushResp f).ctl = s.ctl := by
  rcases pushResp_eq f s with h | h <;> rw [h] <;> rfl
@[simp] theorem State.pushResp_rt (f : List Byte) (s : State) : (s.pushResp f).rt = s.rt := by
  rcases pushResp_eq f s with h | h <;> rw [h] <;> rfl
@[simp] theorem State.pushResp_spi (f : List Byte) (s : State) : (s.pushResp f).spi = s.spi := by
  rcases pushResp_eq f s with h | h <;> rw [h] <;> rfl
@[simp] theorem State.pushResp_port (f : List Byte) (s : State) : (s.pushResp f).port = s.port := by
  rcases pushResp_eq f s with h | h <;> rw [h] <;> rfl
@[simp] theorem State.pushResp_result (f : List Byte) (s : State) : (s.pushResp f).result = s.result := by
  rcases pushResp_eq f s with h | h <;> rw [h] <;> rfl
@[simp] theorem State.pushResp_trace (f : List Byte) (s : State) : (s.pushResp f).trace = s.trace := by
  rcases pushResp_eq f s with h | h <;> rw [h] <;> rfl
@[simp] theorem State.pushResp_free (f : List Byte) (s : State) : (s.pushResp f).free = s.free := by
  rcases pushResp_eq f s with h | h <;> rw [h] <;> rfl

/-! ### pushMoveEnd -/

@[simp] theorem pushMoveEnd_cfg (a b : Byte) (s : State) : (pushMoveEnd a b s).cfg = s.cfg := by
  simp [pushMoveEnd]
@[simp] theorem pushMoveEnd_fsm (a b : Byte) (s : State) : (pushMoveEnd a b s).fsm = s.fsm := by
  simp [pushMoveEnd]
@[simp] theorem pushMoveEnd_seg (a b : Byte) (s : State) : (pushMoveEnd a b s).seg = s.seg := by
  simp [pushMoveEnd]
@[simp] theorem pushMoveEnd_q (a b : Byte) (s : State) : (pushMoveEnd a b s).q = s.q := by
  simp [pushMoveEnd]
@[simp] theorem pushMoveEnd_ax (a b : Byte) (s : State) : (pushMoveEnd a b s).ax = s.ax := by
  simp [pushMoveEnd]
@[simp] theorem pushMoveEnd_pin (a b : Byte) (s : State) : (pushMoveEnd a b s).pin = s.pin := by
  simp [pushMoveEnd]
@[simp] theorem pushMoveEnd_enc (a b : Byte) (s : State) : (pushMoveEnd a b s).enc = s.enc := by
  simp [pushMoveEnd]
@[simp] theorem pushMoveEnd_ctl (a b : Byte) (s : State) : (pushMoveEnd a b s).ctl = s.ctl := by
  simp [pushMoveEnd]
@[simp] theorem pushMoveEnd_rt (a b : Byte) (s : State) : (pushMoveEnd a b s).rt = s.rt := by
  simp [pushMoveEnd]
@[simp] theorem pushMoveEnd_spi (a b : Byte) (s : State) : (pushMoveEnd a b s).spi = s.spi := by
  simp [pushMoveEnd]
@[simp] theorem pushMoveEnd_port (a b : Byte) (s : State) : (pushMoveEnd a b s).port = s.port := by
  simp [pushMoveEnd]
@[simp] theorem pushMoveEnd_result (a b : Byte) (s : State) : (pushMoveEnd a b s).result = s.result := by
  simp [pushMoveEnd]
@[simp] theorem pushMoveEnd_trace (a b : Byte) (s : State) : (pushMoveEnd a b s).trace = s.trace := by
  simp [pushMoveEnd]
@[simp] theorem pushMoveEnd_free (a b : Byte) (s : State) : (pushMoveEnd a b s).free = s.free := by
  simp [pushMoveEnd]

/-! ### moveEnd -/

@[simp] theorem moveEnd_cfg (a b : Byte) (s : State) : (moveEnd a b s).cfg = s.cfg := by
  simp [moveEnd]
@[simp] theorem moveEnd_enc (a b : Byte) (s : State) : (moveEnd a b s).enc = s.enc := by
  simp [moveEnd]
@[simp] theorem moveEnd_ctl (a b : Byte) (s : State) : (moveEnd a b s).ctl = s.ctl := by
  simp [moveEnd]
@[simp] theorem moveEnd_rt (a b : Byte) (s : State) : (moveEnd a b s).rt = s.rt := by
  simp [moveEnd]
@[simp] theorem moveEnd_spi (a b : Byte) (s : State) : (moveEnd a b s).spi = s.spi := by
  simp [moveEnd]
@[simp] theorem moveEnd_port (a b : Byte) (s : State) : (moveEnd a b s).port = s.port := by
  simp [moveEnd]
@[simp] theorem moveEnd_result (a b : Byte) (s : State) : (moveEnd a b s).result = s.result := by
  simp [moveEnd]
@[simp] theorem moveEnd_free (a b : Byte) (s : State) : (moveEnd a b s).free = s.free := by
  simp [moveEnd]

/-! ### respondAck -/

@[simp] theorem respondAck_cfg (t : RespType) (a b : Byte) (s : State) : (respondAck t a b s).cfg = s.cfg := by
  simp [respondAck]
@[simp] theorem respondAck_fsm (t : RespType) (a b : Byte) (s : State) : (respondAck t a b s).fsm = s.fsm := by
  simp [respondAck]
@[simp] theorem respondAck_seg (t : RespType) (a b : Byte) (s : State) : (respondAck t a b s).seg = s.seg := by
  simp [respondAck]
@[simp] theorem respondAck_q (t : RespType) (a b : Byte) (s : State) : (respondAck t a b s).q = s.q := by
  simp [respondAck]
@[simp] theorem respondAck_ax (t : RespType) (a b : Byte) (s : State) : (respondAck t a b s).ax = s.ax := by
  simp [respondAck]
@[simp] theorem respondAck_pin (t : RespType) (a b : Byte) (s : State) : (respondAck t a b s).pin = s.pin := by
  simp [respondAck]
@[simp] theorem respondAck_enc (t : RespType) (a b : Byte) (s : State) : (respondAck t a b s).enc = s.enc := by
  simp [respondAck]
@[simp] theorem respondAck_ctl (t : RespType) (a b : Byte) (s : State) : (respondAck t a b s).ctl = s.ctl := by
  simp [respondAck]
@[simp] theorem respondAck_rt (t : RespType) (a b : Byte) (s : State) : (respondAck t a b s).rt = s.rt := by
  simp [respondAck]
@[simp] theorem respondAck_spi (t : RespType) (a b : Byte) (s : State) : (respondAck t a b s).spi = s.spi := by
  simp [respondAck]
@[simp] theorem respondAck_port (t : RespType) (a b : Byte) (s : State) : (respondAck t a b s).port = s.port := by
  simp [respondAck]
@[simp] theorem respondAck_result (t : RespType) (a b : Byte) (s : State) : (respondAck t a b s).result = s.result := by
  simp [respondAck]
@[simp] theorem respondAck_trace (t : RespType) (a b : Byte) (s : State) : (respondAck t a b s).trace = s.trace := by
  simp [respondAck]
@[simp] theorem respondAck_free (t : RespType) (a b : Byte) (s : State) : (respondAck t a b s).free = s.free := by
  simp [respondAck]

/-- What an accepted enqueue writes (R220). -/
theorem enqueue_ok_eq {g : MoveSegment} {s t : State} (h : s.enqueue g = .ok t) :
    t = ((s.setQ t.q).setAx t.ax).setFsm t.fsm := by
  unfold State.enqueue at h
  split at h
  · cases h
  · cases h; rfl

/-! ### completionCheck -/

@[simp] theorem completionCheck_cfg (s : State) : (completionCheck s).cfg = s.cfg := by
  unfold completionCheck; dsimp only; split <;> [(split <;> [simp; (split <;> simp)]); rfl]
@[simp] theorem completionCheck_enc (s : State) : (completionCheck s).enc = s.enc := by
  unfold completionCheck; dsimp only; split <;> [(split <;> [simp; (split <;> simp)]); rfl]
@[simp] theorem completionCheck_ctl (s : State) : (completionCheck s).ctl = s.ctl := by
  unfold completionCheck; dsimp only; split <;> [(split <;> [simp; (split <;> simp)]); rfl]
@[simp] theorem completionCheck_rt (s : State) : (completionCheck s).rt = s.rt := by
  unfold completionCheck; dsimp only; split <;> [(split <;> [simp; (split <;> simp)]); rfl]
@[simp] theorem completionCheck_spi (s : State) : (completionCheck s).spi = s.spi := by
  unfold completionCheck; dsimp only; split <;> [(split <;> [simp; (split <;> simp)]); rfl]
@[simp] theorem completionCheck_port (s : State) : (completionCheck s).port = s.port := by
  unfold completionCheck; dsimp only; split <;> [(split <;> [simp; (split <;> simp)]); rfl]
@[simp] theorem completionCheck_result (s : State) : (completionCheck s).result = s.result := by
  unfold completionCheck; dsimp only; split <;> [(split <;> [simp; (split <;> simp)]); rfl]
@[simp] theorem completionCheck_free (s : State) : (completionCheck s).free = s.free := by
  unfold completionCheck; dsimp only; split <;> [(split <;> [simp; (split <;> simp)]); rfl]

/-! ### tickHf -/

@[simp] theorem tickHf_cfg (s : State) : (tickHf s).cfg = s.cfg := by
  unfold tickHf; dsimp only; split <;> simp [State.forAxes]
@[simp] theorem tickHf_enc (s : State) : (tickHf s).enc = s.enc := by
  unfold tickHf; dsimp only; split <;> simp [State.forAxes]
@[simp] theorem tickHf_ctl (s : State) : (tickHf s).ctl = s.ctl := by
  unfold tickHf; dsimp only; split <;> simp [State.forAxes]
@[simp] theorem tickHf_rt (s : State) : (tickHf s).rt = s.rt := by
  unfold tickHf; dsimp only; split <;> simp [State.forAxes]
@[simp] theorem tickHf_spi (s : State) : (tickHf s).spi = s.spi := by
  unfold tickHf; dsimp only; split <;> simp [State.forAxes]
@[simp] theorem tickHf_port (s : State) : (tickHf s).port = s.port := by
  unfold tickHf; dsimp only; split <;> simp [State.forAxes]
@[simp] theorem tickHf_result (s : State) : (tickHf s).result = s.result := by
  unfold tickHf; dsimp only; split <;> simp [State.forAxes]
@[simp] theorem tickHf_free (s : State) : (tickHf s).free = s.free := by
  unfold tickHf; dsimp only; split <;> simp [State.forAxes]

/-! ### tickLf -/

@[simp] theorem tickLf_cfg (r : PerAxis U32) (s : State) : (tickLf r s).cfg = s.cfg := by
  unfold tickLf; dsimp only; split <;> simp [State.forAxes]
@[simp] theorem tickLf_fsm (r : PerAxis U32) (s : State) : (tickLf r s).fsm = s.fsm := by
  unfold tickLf; dsimp only; split <;> simp [State.forAxes]
@[simp] theorem tickLf_seg (r : PerAxis U32) (s : State) : (tickLf r s).seg = s.seg := by
  unfold tickLf; dsimp only; split <;> simp [State.forAxes]
@[simp] theorem tickLf_q (r : PerAxis U32) (s : State) : (tickLf r s).q = s.q := by
  unfold tickLf; dsimp only; split <;> simp [State.forAxes]
@[simp] theorem tickLf_pin (r : PerAxis U32) (s : State) : (tickLf r s).pin = s.pin := by
  unfold tickLf; dsimp only; split <;> simp [State.forAxes]
@[simp] theorem tickLf_rt (r : PerAxis U32) (s : State) : (tickLf r s).rt = s.rt := by
  unfold tickLf; dsimp only; split <;> simp [State.forAxes]
@[simp] theorem tickLf_rf (r : PerAxis U32) (s : State) : (tickLf r s).rf = s.rf := by
  unfold tickLf; dsimp only; split <;> simp [State.forAxes]
@[simp] theorem tickLf_spi (r : PerAxis U32) (s : State) : (tickLf r s).spi = s.spi := by
  unfold tickLf; dsimp only; split <;> simp [State.forAxes]
@[simp] theorem tickLf_cnt (r : PerAxis U32) (s : State) : (tickLf r s).cnt = s.cnt := by
  unfold tickLf; dsimp only; split <;> simp [State.forAxes]
@[simp] theorem tickLf_port (r : PerAxis U32) (s : State) : (tickLf r s).port = s.port := by
  unfold tickLf; dsimp only; split <;> simp [State.forAxes]
@[simp] theorem tickLf_result (r : PerAxis U32) (s : State) : (tickLf r s).result = s.result := by
  unfold tickLf; dsimp only; split <;> simp [State.forAxes]
@[simp] theorem tickLf_trace (r : PerAxis U32) (s : State) : (tickLf r s).trace = s.trace := by
  unfold tickLf; dsimp only; split <;> simp [State.forAxes]
@[simp] theorem tickLf_free (r : PerAxis U32) (s : State) : (tickLf r s).free = s.free := by
  unfold tickLf; dsimp only; split <;> simp [State.forAxes]

/-! ### addSegment -/

@[simp] theorem addSegment_cfg (g : MoveSegment) (s : State) : (addSegment g s).cfg = s.cfg := by
  unfold addSegment; split <;> [simp; (split <;> [(rename_i h; rw [enqueue_ok_eq h]; simp); simp])]
@[simp] theorem addSegment_seg (g : MoveSegment) (s : State) : (addSegment g s).seg = s.seg := by
  unfold addSegment; split <;> [simp; (split <;> [(rename_i h; rw [enqueue_ok_eq h]; simp); simp])]
@[simp] theorem addSegment_pin (g : MoveSegment) (s : State) : (addSegment g s).pin = s.pin := by
  unfold addSegment; split <;> [simp; (split <;> [(rename_i h; rw [enqueue_ok_eq h]; simp); simp])]
@[simp] theorem addSegment_enc (g : MoveSegment) (s : State) : (addSegment g s).enc = s.enc := by
  unfold addSegment; split <;> [simp; (split <;> [(rename_i h; rw [enqueue_ok_eq h]; simp); simp])]
@[simp] theorem addSegment_ctl (g : MoveSegment) (s : State) : (addSegment g s).ctl = s.ctl := by
  unfold addSegment; split <;> [simp; (split <;> [(rename_i h; rw [enqueue_ok_eq h]; simp); simp])]
@[simp] theorem addSegment_rt (g : MoveSegment) (s : State) : (addSegment g s).rt = s.rt := by
  unfold addSegment; split <;> [simp; (split <;> [(rename_i h; rw [enqueue_ok_eq h]; simp); simp])]
@[simp] theorem addSegment_spi (g : MoveSegment) (s : State) : (addSegment g s).spi = s.spi := by
  unfold addSegment; split <;> [simp; (split <;> [(rename_i h; rw [enqueue_ok_eq h]; simp); simp])]
@[simp] theorem addSegment_port (g : MoveSegment) (s : State) : (addSegment g s).port = s.port := by
  unfold addSegment; split <;> [simp; (split <;> [(rename_i h; rw [enqueue_ok_eq h]; simp); simp])]
@[simp] theorem addSegment_result (g : MoveSegment) (s : State) : (addSegment g s).result = s.result := by
  unfold addSegment; split <;> [simp; (split <;> [(rename_i h; rw [enqueue_ok_eq h]; simp); simp])]
@[simp] theorem addSegment_trace (g : MoveSegment) (s : State) : (addSegment g s).trace = s.trace := by
  unfold addSegment; split <;> [simp; (split <;> [(rename_i h; rw [enqueue_ok_eq h]; simp); simp])]
@[simp] theorem addSegment_free (g : MoveSegment) (s : State) : (addSegment g s).free = s.free := by
  unfold addSegment; split <;> [simp; (split <;> [(rename_i h; rw [enqueue_ok_eq h]; simp); simp])]

/-! ### setOrigins -/

@[simp] theorem setOrigins_cfg (m : Byte) (b : PerAxis U64) (s : State) : (setOrigins m b s).cfg = s.cfg := by
  simp only [setOrigins, State.forAxes]; split <;> split <;> split <;> rfl
@[simp] theorem setOrigins_fsm (m : Byte) (b : PerAxis U64) (s : State) : (setOrigins m b s).fsm = s.fsm := by
  simp only [setOrigins, State.forAxes]; split <;> split <;> split <;> rfl
@[simp] theorem setOrigins_seg (m : Byte) (b : PerAxis U64) (s : State) : (setOrigins m b s).seg = s.seg := by
  simp only [setOrigins, State.forAxes]; split <;> split <;> split <;> rfl
@[simp] theorem setOrigins_q (m : Byte) (b : PerAxis U64) (s : State) : (setOrigins m b s).q = s.q := by
  simp only [setOrigins, State.forAxes]; split <;> split <;> split <;> rfl
@[simp] theorem setOrigins_ax (m : Byte) (b : PerAxis U64) (s : State) : (setOrigins m b s).ax = s.ax := by
  simp only [setOrigins, State.forAxes]; split <;> split <;> split <;> rfl
@[simp] theorem setOrigins_pin (m : Byte) (b : PerAxis U64) (s : State) : (setOrigins m b s).pin = s.pin := by
  simp only [setOrigins, State.forAxes]; split <;> split <;> split <;> rfl
@[simp] theorem setOrigins_ctl (m : Byte) (b : PerAxis U64) (s : State) : (setOrigins m b s).ctl = s.ctl := by
  simp only [setOrigins, State.forAxes]; split <;> split <;> split <;> rfl
@[simp] theorem setOrigins_rt (m : Byte) (b : PerAxis U64) (s : State) : (setOrigins m b s).rt = s.rt := by
  simp only [setOrigins, State.forAxes]; split <;> split <;> split <;> rfl
@[simp] theorem setOrigins_rf (m : Byte) (b : PerAxis U64) (s : State) : (setOrigins m b s).rf = s.rf := by
  simp only [setOrigins, State.forAxes]; split <;> split <;> split <;> rfl
@[simp] theorem setOrigins_spi (m : Byte) (b : PerAxis U64) (s : State) : (setOrigins m b s).spi = s.spi := by
  simp only [setOrigins, State.forAxes]; split <;> split <;> split <;> rfl
@[simp] theorem setOrigins_cnt (m : Byte) (b : PerAxis U64) (s : State) : (setOrigins m b s).cnt = s.cnt := by
  simp only [setOrigins, State.forAxes]; split <;> split <;> split <;> rfl
@[simp] theorem setOrigins_port (m : Byte) (b : PerAxis U64) (s : State) : (setOrigins m b s).port = s.port := by
  simp only [setOrigins, State.forAxes]; split <;> split <;> split <;> rfl
@[simp] theorem setOrigins_result (m : Byte) (b : PerAxis U64) (s : State) : (setOrigins m b s).result = s.result := by
  simp only [setOrigins, State.forAxes]; split <;> split <;> split <;> rfl
@[simp] theorem setOrigins_trace (m : Byte) (b : PerAxis U64) (s : State) : (setOrigins m b s).trace = s.trace := by
  simp only [setOrigins, State.forAxes]; split <;> split <;> split <;> rfl
@[simp] theorem setOrigins_free (m : Byte) (b : PerAxis U64) (s : State) : (setOrigins m b s).free = s.free := by
  simp only [setOrigins, State.forAxes]; split <;> split <;> split <;> rfl

/-! ### setMicrosteps -/

@[simp] theorem setMicrosteps_cfg (a : Byte) (m : U16) (s : State) : (setMicrosteps a m s).cfg = s.cfg := by
  unfold setMicrosteps; split <;> simp
@[simp] theorem setMicrosteps_fsm (a : Byte) (m : U16) (s : State) : (setMicrosteps a m s).fsm = s.fsm := by
  unfold setMicrosteps; split <;> simp
@[simp] theorem setMicrosteps_seg (a : Byte) (m : U16) (s : State) : (setMicrosteps a m s).seg = s.seg := by
  unfold setMicrosteps; split <;> simp
@[simp] theorem setMicrosteps_q (a : Byte) (m : U16) (s : State) : (setMicrosteps a m s).q = s.q := by
  unfold setMicrosteps; split <;> simp
@[simp] theorem setMicrosteps_ax (a : Byte) (m : U16) (s : State) : (setMicrosteps a m s).ax = s.ax := by
  unfold setMicrosteps; split <;> simp
@[simp] theorem setMicrosteps_pin (a : Byte) (m : U16) (s : State) : (setMicrosteps a m s).pin = s.pin := by
  unfold setMicrosteps; split <;> simp
@[simp] theorem setMicrosteps_enc (a : Byte) (m : U16) (s : State) : (setMicrosteps a m s).enc = s.enc := by
  unfold setMicrosteps; split <;> simp
@[simp] theorem setMicrosteps_rt (a : Byte) (m : U16) (s : State) : (setMicrosteps a m s).rt = s.rt := by
  unfold setMicrosteps; split <;> simp
@[simp] theorem setMicrosteps_spi (a : Byte) (m : U16) (s : State) : (setMicrosteps a m s).spi = s.spi := by
  unfold setMicrosteps; split <;> simp
@[simp] theorem setMicrosteps_port (a : Byte) (m : U16) (s : State) : (setMicrosteps a m s).port = s.port := by
  unfold setMicrosteps; split <;> simp
@[simp] theorem setMicrosteps_result (a : Byte) (m : U16) (s : State) : (setMicrosteps a m s).result = s.result := by
  unfold setMicrosteps; split <;> simp
@[simp] theorem setMicrosteps_trace (a : Byte) (m : U16) (s : State) : (setMicrosteps a m s).trace = s.trace := by
  unfold setMicrosteps; split <;> simp
@[simp] theorem setMicrosteps_free (a : Byte) (m : U16) (s : State) : (setMicrosteps a m s).free = s.free := by
  unfold setMicrosteps; split <;> simp

/-! ### setFriction -/

@[simp] theorem setFriction_cfg (a : Byte) (s : State) : (setFriction a s).cfg = s.cfg := by
  unfold setFriction; dsimp only; split <;> [(split <;> simp); simp]
@[simp] theorem setFriction_seg (a : Byte) (s : State) : (setFriction a s).seg = s.seg := by
  unfold setFriction; dsimp only; split <;> [(split <;> simp); simp]
@[simp] theorem setFriction_ax (a : Byte) (s : State) : (setFriction a s).ax = s.ax := by
  unfold setFriction; dsimp only; split <;> [(split <;> simp); simp]
@[simp] theorem setFriction_pin (a : Byte) (s : State) : (setFriction a s).pin = s.pin := by
  unfold setFriction; dsimp only; split <;> [(split <;> simp); simp]
@[simp] theorem setFriction_enc (a : Byte) (s : State) : (setFriction a s).enc = s.enc := by
  unfold setFriction; dsimp only; split <;> [(split <;> simp); simp]
@[simp] theorem setFriction_rt (a : Byte) (s : State) : (setFriction a s).rt = s.rt := by
  unfold setFriction; dsimp only; split <;> [(split <;> simp); simp]
@[simp] theorem setFriction_rf (a : Byte) (s : State) : (setFriction a s).rf = s.rf := by
  unfold setFriction; dsimp only; split <;> [(split <;> simp); simp]
@[simp] theorem setFriction_spi (a : Byte) (s : State) : (setFriction a s).spi = s.spi := by
  unfold setFriction; dsimp only; split <;> [(split <;> simp); simp]
@[simp] theorem setFriction_cnt (a : Byte) (s : State) : (setFriction a s).cnt = s.cnt := by
  unfold setFriction; dsimp only; split <;> [(split <;> simp); simp]
@[simp] theorem setFriction_port (a : Byte) (s : State) : (setFriction a s).port = s.port := by
  unfold setFriction; dsimp only; split <;> [(split <;> simp); simp]
@[simp] theorem setFriction_result (a : Byte) (s : State) : (setFriction a s).result = s.result := by
  unfold setFriction; dsimp only; split <;> [(split <;> simp); simp]
@[simp] theorem setFriction_trace (a : Byte) (s : State) : (setFriction a s).trace = s.trace := by
  unfold setFriction; dsimp only; split <;> [(split <;> simp); simp]
@[simp] theorem setFriction_free (a : Byte) (s : State) : (setFriction a s).free = s.free := by
  unfold setFriction; dsimp only; split <;> [(split <;> simp); simp]

/-- A frame that does not decode is only counted (R175). -/
theorem withDecoded_cases (t : ReqType) (f : List Byte) (k : Record → State → State) (s : State) :
    (∃ r, decodeReq s.cfg t f = .ok r ∧ withDecoded t f k s = k r s) ∨
      (∃ e, decodeReq s.cfg t f = .error e ∧ withDecoded t f k s = s.countFrameDrop) := by
  unfold withDecoded
  split
  · exact .inl ⟨_, ‹_›, rfl⟩
  · exact .inr ⟨_, ‹_›, rfl⟩

/-- A handler leaves a component as it is when what it does with a decoded record, and the drop counter, do. -/
theorem withDecoded_keeps {β : Type} (p : State → β) (t : ReqType) (f : List Byte) (k : Record → State → State)
    (s : State) (hk : ∀ r, p (k r s) = p s) (hd : p s.countFrameDrop = p s) : p (withDecoded t f k s) = p s := by
  rcases withDecoded_cases t f k s with ⟨r, -, h⟩ | ⟨e, -, h⟩ <;> rw [h]
  · exact hk r
  · exact hd

@[simp] theorem handle_cfg (t : ReqType) (f : List Byte) (s : State) : (handle t f s).cfg = s.cfg := by
  cases t <;> simp only [handle, handleMoveQueueAdd, handleMoveQueueStatus, handleStartMove, handleMoveEnd,
    handleSetOrigin, handleEncoderStatus, handleLedControl, handleHome, handleProbeLevel, handleMicrosteps, handleAutoFriction,
    forward] <;> exact withDecoded_keeps State.cfg _ _ _ _ (fun r => by simp) (by simp)
@[simp] theorem handle_rt (t : ReqType) (f : List Byte) (s : State) : (handle t f s).rt = s.rt := by
  cases t <;> simp only [handle, handleMoveQueueAdd, handleMoveQueueStatus, handleStartMove, handleMoveEnd,
    handleSetOrigin, handleEncoderStatus, handleLedControl, handleHome, handleProbeLevel, handleMicrosteps, handleAutoFriction,
    forward] <;> exact withDecoded_keeps State.rt _ _ _ _ (fun r => by simp) (by simp)
@[simp] theorem handle_spi (t : ReqType) (f : List Byte) (s : State) : (handle t f s).spi = s.spi := by
  cases t <;> simp only [handle, handleMoveQueueAdd, handleMoveQueueStatus, handleStartMove, handleMoveEnd,
    handleSetOrigin, handleEncoderStatus, handleLedControl, handleHome, handleProbeLevel, handleMicrosteps, handleAutoFriction,
    forward] <;> exact withDecoded_keeps State.spi _ _ _ _ (fun r => by simp) (by simp)
@[simp] theorem handle_port (t : ReqType) (f : List Byte) (s : State) : (handle t f s).port = s.port := by
  cases t <;> simp only [handle, handleMoveQueueAdd, handleMoveQueueStatus, handleStartMove, handleMoveEnd,
    handleSetOrigin, handleEncoderStatus, handleLedControl, handleHome, handleProbeLevel, handleMicrosteps, handleAutoFriction,
    forward] <;> exact withDecoded_keeps State.port _ _ _ _ (fun r => by simp) (by simp)
@[simp] theorem handle_result (t : ReqType) (f : List Byte) (s : State) : (handle t f s).result = s.result := by
  cases t <;> simp only [handle, handleMoveQueueAdd, handleMoveQueueStatus, handleStartMove, handleMoveEnd,
    handleSetOrigin, handleEncoderStatus, handleLedControl, handleHome, handleProbeLevel, handleMicrosteps, handleAutoFriction,
    forward] <;> exact withDecoded_keeps State.result _ _ _ _ (fun r => by simp) (by simp)
@[simp] theorem handle_free (t : ReqType) (f : List Byte) (s : State) : (handle t f s).free = s.free := by
  cases t <;> simp only [handle, handleMoveQueueAdd, handleMoveQueueStatus, handleStartMove, handleMoveEnd,
    handleSetOrigin, handleEncoderStatus, handleLedControl, handleHome, handleProbeLevel, handleMicrosteps, handleAutoFriction,
    forward] <;> exact withDecoded_keeps State.free _ _ _ _ (fun r => by simp) (by simp)

/-! ### dispatch -/

@[simp] theorem dispatch_cfg (f : List Byte) (s : State) : (dispatch f s).cfg = s.cfg := by
  unfold dispatch; split <;> simp
@[simp] theorem dispatch_rt (f : List Byte) (s : State) : (dispatch f s).rt = s.rt := by
  unfold dispatch; split <;> simp
@[simp] theorem dispatch_spi (f : List Byte) (s : State) : (dispatch f s).spi = s.spi := by
  unfold dispatch; split <;> simp
@[simp] theorem dispatch_port (f : List Byte) (s : State) : (dispatch f s).port = s.port := by
  unfold dispatch; split <;> simp
@[simp] theorem dispatch_result (f : List Byte) (s : State) : (dispatch f s).result = s.result := by
  unfold dispatch; split <;> simp
@[simp] theorem dispatch_free (f : List Byte) (s : State) : (dispatch f s).free = s.free := by
  unfold dispatch; split <;> simp

/-! ### makeRoom -/

@[simp] theorem makeRoom_cfg (s : State) : (makeRoom s).cfg = s.cfg := by
  unfold makeRoom; split <;> simp
@[simp] theorem makeRoom_fsm (s : State) : (makeRoom s).fsm = s.fsm := by
  unfold makeRoom; split <;> simp
@[simp] theorem makeRoom_seg (s : State) : (makeRoom s).seg = s.seg := by
  unfold makeRoom; split <;> simp
@[simp] theorem makeRoom_q (s : State) : (makeRoom s).q = s.q := by
  unfold makeRoom; split <;> simp
@[simp] theorem makeRoom_ax (s : State) : (makeRoom s).ax = s.ax := by
  unfold makeRoom; split <;> simp
@[simp] theorem makeRoom_pin (s : State) : (makeRoom s).pin = s.pin := by
  unfold makeRoom; split <;> simp
@[simp] theorem makeRoom_enc (s : State) : (makeRoom s).enc = s.enc := by
  unfold makeRoom; split <;> simp
@[simp] theorem makeRoom_ctl (s : State) : (makeRoom s).ctl = s.ctl := by
  unfold makeRoom; split <;> simp
@[simp] theorem makeRoom_rf (s : State) : (makeRoom s).rf = s.rf := by
  unfold makeRoom; split <;> simp
@[simp] theorem makeRoom_spi (s : State) : (makeRoom s).spi = s.spi := by
  unfold makeRoom; split <;> simp
@[simp] theorem makeRoom_port (s : State) : (makeRoom s).port = s.port := by
  unfold makeRoom; split <;> simp
@[simp] theorem makeRoom_result (s : State) : (makeRoom s).result = s.result := by
  unfold makeRoom; split <;> simp
@[simp] theorem makeRoom_trace (s : State) : (makeRoom s).trace = s.trace := by
  unfold makeRoom; split <;> simp
@[simp] theorem makeRoom_free (s : State) : (makeRoom s).free = s.free := by
  unfold makeRoom; split <;> simp

/-! ### recognise -/

@[simp] theorem recognise_cfg (s : State) : (recognise s).cfg = s.cfg := by
  unfold recognise; split <;> [simp; (split <;> simp)]
@[simp] theorem recognise_spi (s : State) : (recognise s).spi = s.spi := by
  unfold recognise; split <;> [simp; (split <;> simp)]
@[simp] theorem recognise_port (s : State) : (recognise s).port = s.port := by
  unfold recognise; split <;> [simp; (split <;> simp)]
@[simp] theorem recognise_result (s : State) : (recognise s).result = s.result := by
  unfold recognise; split <;> [simp; (split <;> simp)]
@[simp] theorem recognise_free (s : State) : (recognise s).free = s.free := by
  unfold recognise; split <;> [simp; (split <;> simp)]

/-! ### routeByte -/

@[simp] theorem routeByte_cfg (b : Byte) (s : State) : (routeByte b s).cfg = s.cfg := by
  simp [routeByte]
@[simp] theorem routeByte_spi (b : Byte) (s : State) : (routeByte b s).spi = s.spi := by
  simp [routeByte]
@[simp] theorem routeByte_port (b : Byte) (s : State) : (routeByte b s).port = s.port := by
  simp [routeByte]
@[simp] theorem routeByte_result (b : Byte) (s : State) : (routeByte b s).result = s.result := by
  simp [routeByte]
@[simp] theorem routeByte_free (b : Byte) (s : State) : (routeByte b s).free = s.free := by
  simp [routeByte]

theorem routeBytes_keeps {β : Type} (p : State → β) (h : ∀ b s, p (routeByte b s) = p s) (bs : List Byte) (s : State) :
    p (routeBytes bs s) = p s := by
  induction bs generalizing s with
  | nil => rfl
  | cons b bs ih => exact (ih (routeByte b s)).trans (h b s)

/-! ### routeBytes -/

@[simp] theorem routeBytes_cfg (bs : List Byte) (s : State) : (routeBytes bs s).cfg = s.cfg := by
  exact routeBytes_keeps _ (fun b s => by simp) bs s
@[simp] theorem routeBytes_spi (bs : List Byte) (s : State) : (routeBytes bs s).spi = s.spi := by
  exact routeBytes_keeps _ (fun b s => by simp) bs s
@[simp] theorem routeBytes_port (bs : List Byte) (s : State) : (routeBytes bs s).port = s.port := by
  exact routeBytes_keeps _ (fun b s => by simp) bs s
@[simp] theorem routeBytes_result (bs : List Byte) (s : State) : (routeBytes bs s).result = s.result := by
  exact routeBytes_keeps _ (fun b s => by simp) bs s
@[simp] theorem routeBytes_free (bs : List Byte) (s : State) : (routeBytes bs s).free = s.free := by
  exact routeBytes_keeps _ (fun b s => by simp) bs s

/-! ### transfer -/

@[simp] theorem transfer_cfg (bs : List Byte) (s : State) : (transfer bs s).cfg = s.cfg := by
  unfold transfer; split <;> simp
@[simp] theorem transfer_spi (bs : List Byte) (s : State) : (transfer bs s).spi = s.spi := by
  unfold transfer; split <;> simp
@[simp] theorem transfer_port (bs : List Byte) (s : State) : (transfer bs s).port = s.port := by
  unfold transfer; split <;> simp
@[simp] theorem transfer_result (bs : List Byte) (s : State) : (transfer bs s).result = s.result := by
  unfold transfer; split <;> simp
@[simp] theorem transfer_free (bs : List Byte) (s : State) : (transfer bs s).free = s.free := by
  unfold transfer; split <;> simp

/-! ### sendResponse -/

@[simp] theorem sendResponse_cfg (t : RespType) (f : List Byte) (s : State) : (sendResponse t f s).cfg = s.cfg := by
  unfold sendResponse; split <;> simp
@[simp] theorem sendResponse_fsm (t : RespType) (f : List Byte) (s : State) : (sendResponse t f s).fsm = s.fsm := by
  unfold sendResponse; split <;> simp
@[simp] theorem sendResponse_seg (t : RespType) (f : List Byte) (s : State) : (sendResponse t f s).seg = s.seg := by
  unfold sendResponse; split <;> simp
@[simp] theorem sendResponse_q (t : RespType) (f : List Byte) (s : State) : (sendResponse t f s).q = s.q := by
  unfold sendResponse; split <;> simp
@[simp] theorem sendResponse_ax (t : RespType) (f : List Byte) (s : State) : (sendResponse t f s).ax = s.ax := by
  unfold sendResponse; split <;> simp
@[simp] theorem sendResponse_pin (t : RespType) (f : List Byte) (s : State) : (sendResponse t f s).pin = s.pin := by
  unfold sendResponse; split <;> simp
@[simp] theorem sendResponse_enc (t : RespType) (f : List Byte) (s : State) : (sendResponse t f s).enc = s.enc := by
  unfold sendResponse; split <;> simp
@[simp] theorem sendResponse_ctl (t : RespType) (f : List Byte) (s : State) : (sendResponse t f s).ctl = s.ctl := by
  unfold sendResponse; split <;> simp
@[simp] theorem sendResponse_rt (t : RespType) (f : List Byte) (s : State) : (sendResponse t f s).rt = s.rt := by
  unfold sendResponse; split <;> simp
@[simp] theorem sendResponse_spi (t : RespType) (f : List Byte) (s : State) : (sendResponse t f s).spi = s.spi := by
  unfold sendResponse; split <;> simp
@[simp] theorem sendResponse_port (t : RespType) (f : List Byte) (s : State) : (sendResponse t f s).port = s.port := by
  unfold sendResponse; split <;> simp
@[simp] theorem sendResponse_trace (t : RespType) (f : List Byte) (s : State) : (sendResponse t f s).trace = s.trace := by
  unfold sendResponse; split <;> simp
@[simp] theorem sendResponse_free (t : RespType) (f : List Byte) (s : State) : (sendResponse t f s).free = s.free := by
  unfold sendResponse; split <;> simp

end Sys2Proof.Machine
end

