-- ==== Sys2Proof/Laws/Engine.lean ====
section
/-! SUPPORT. What the motion engine's operations write: one lemma per written component of each shared operation. -/

namespace Sys2Proof.Machine

/-! ### Stop (R231) -/

@[simp] theorem stopAxis_ax (i : Axis) (s : State) : (stopAxis i s).ax = s.ax.set i .zero := rfl
@[simp] theorem stopAxis_pin (i : Axis) (s : State) :
    (stopAxis i s).pin = s.pin.set i { s.pin.get i with step := false, en := false } := rfl
@[simp] theorem stopAxis_trace (i : Axis) (s : State) :
    (stopAxis i s).trace = s.trace ++ stopEvents i (s.pin.get i) := rfl

@[simp] theorem stopAllAxes_ax (s : State) : (stopAllAxes s).ax = .same .zero := by
  simp [stopAllAxes, State.forAxes, PerAxis.set, PerAxis.same]
@[simp] theorem stopAllAxes_pin (s : State) (i : Axis) :
    (stopAllAxes s).pin.get i = { s.pin.get i with step := false, en := false } := by
  cases i <;> simp [stopAllAxes, State.forAxes, PerAxis.get_set]
@[simp] theorem stopAllAxes_seg (s : State) : (stopAllAxes s).seg = { s.seg with active := false } := by
  simp [stopAllAxes, State.forAxes]
@[simp] theorem stopAllAxes_trace (s : State) :
    (stopAllAxes s).trace =
      s.trace ++ (stopEvents .x s.pin.x ++ stopEvents .y s.pin.y ++ stopEvents .z s.pin.z) := by
  simp [stopAllAxes, State.forAxes, PerAxis.set, PerAxis.get]

/-! ### Begin (R230) -/

/-- The AxisState a begin leaves on axis `i` (R230). -/
def begunAxis (g : MoveSegment) (chained : Bool) (i : Axis) (s : State) : AxisState :=
  beginSettle s.cfg g i (s.pin.get i)
    (beginLoad s.cfg s.ctl.frictionEn g chained i (s.enc.get i).cum (s.ax.get i))

@[simp] theorem beginAxis_ax (g : MoveSegment) (b : Bool) (i : Axis) (s : State) :
    (beginAxis g b i s).ax = s.ax.set i (begunAxis g b i s) := rfl
@[simp] theorem beginAxis_pin (g : MoveSegment) (b : Bool) (i : Axis) (s : State) :
    (beginAxis g b i s).pin = s.pin.set i (beginPin g i (s.pin.get i)) := rfl
@[simp] theorem beginAxis_trace (g : MoveSegment) (b : Bool) (i : Axis) (s : State) :
    (beginAxis g b i s).trace = s.trace ++ beginEvents g i (s.pin.get i) := rfl

@[simp] theorem beginSegment_ax (g : MoveSegment) (b : Bool) (s : State) (i : Axis) :
    (beginSegment g b s).ax.get i = begunAxis g b i s := by
  cases i <;> simp [beginSegment, State.forAxes, PerAxis.get_set, begunAxis]
@[simp] theorem beginSegment_pin (g : MoveSegment) (b : Bool) (s : State) (i : Axis) :
    (beginSegment g b s).pin.get i = beginPin g i (s.pin.get i) := by
  cases i <;> simp [beginSegment, State.forAxes, PerAxis.get_set]
@[simp] theorem beginSegment_seg (g : MoveSegment) (b : Bool) (s : State) :
    (beginSegment g b s).seg = ⟨true, g.fid, g.dirMask⟩ := by
  simp [beginSegment, State.forAxes]
@[simp] theorem beginSegment_trace (g : MoveSegment) (b : Bool) (s : State) :
    (beginSegment g b s).trace =
      s.trace ++ (beginEvents g .x s.pin.x ++ beginEvents g .y s.pin.y ++ beginEvents g .z s.pin.z) := by
  simp [beginSegment, State.forAxes, PerAxis.set, PerAxis.get]

@[simp] theorem beginNext_ax (b : Bool) (s : State) (i : Axis) :
    (beginNext b s).ax.get i = begunAxis s.headSegment b i s := by
  simp [beginNext, begunAxis]
@[simp] theorem beginNext_pin (b : Bool) (s : State) (i : Axis) :
    (beginNext b s).pin.get i = beginPin s.headSegment i (s.pin.get i) := by
  simp [beginNext]
@[simp] theorem beginNext_seg (b : Bool) (s : State) :
    (beginNext b s).seg = ⟨true, s.headSegment.fid, s.headSegment.dirMask⟩ := by
  simp [beginNext]
@[simp] theorem beginNext_q (b : Bool) (s : State) : (beginNext b s).q = s.dequeue.q := by
  simp [beginNext]
@[simp] theorem beginNext_trace (b : Bool) (s : State) :
    (beginNext b s).trace = s.trace ++ (beginEvents s.headSegment .x s.pin.x ++ beginEvents s.headSegment .y s.pin.y ++
      beginEvents s.headSegment .z s.pin.z) := by
  simp [beginNext]

/-! ### TICK_HF, phase 1 (R261) -/

/-- The pins after phase 1: the line falls when its high hold ends. -/
def closedPin (a : AxisState) (p : Pin) : Pin := if pulseEnds a then { p with step := false } else p

/-- The events of phase 1 on axis `i`. -/
def closeEvents (i : Axis) (a : AxisState) : List Event := if pulseEnds a then [.stepLow i] else []

@[simp] theorem closePulse_ax (i : Axis) (s : State) :
    (closePulse i s).ax = s.ax.set i (closeHolds s.cfg (s.ax.get i)) := by
  unfold closePulse; dsimp only; split <;> simp
@[simp] theorem closePulse_pin (i : Axis) (s : State) :
    (closePulse i s).pin = s.pin.set i (closedPin (s.ax.get i) (s.pin.get i)) := by
  unfold closePulse closedPin; dsimp only; split <;> simp
@[simp] theorem closePulse_trace (i : Axis) (s : State) :
    (closePulse i s).trace = s.trace ++ closeEvents i (s.ax.get i) := by
  unfold closePulse closeEvents; dsimp only; split <;> simp

theorem closed_ax (s : State) (i : Axis) : (s.forAxes closePulse).ax.get i = closeHolds s.cfg (s.ax.get i) := by
  cases i <;> simp [State.forAxes, PerAxis.get_set]
theorem closed_pin (s : State) (i : Axis) :
    (s.forAxes closePulse).pin.get i = closedPin (s.ax.get i) (s.pin.get i) := by
  cases i <;> simp [State.forAxes, PerAxis.get_set]
theorem closed_trace (s : State) :
    (s.forAxes closePulse).trace =
      s.trace ++ (closeEvents .x s.ax.x ++ closeEvents .y s.ax.y ++ closeEvents .z s.ax.z) := by
  simp [State.forAxes, PerAxis.set, PerAxis.get]

/-! ### TICK_HF, phase 2 (R262, R263) -/

/-- Whether axis `a` takes a step in phase 2. -/
def takesStep (a : AxisState) : Bool := eligible a && stepsNow a

/-- The axis after phase 2. -/
def movedAxis (c : Config) (a : AxisState) : AxisState := if eligible a then accumulated c a else a

/-- The pins after phase 2. -/
def movedPin (a : AxisState) (p : Pin) : Pin := if takesStep a then { p with step := true } else p

/-- The events of phase 2 on axis `i`. -/
def moveEvents (i : Axis) (a : AxisState) : List Event := if takesStep a then [.stepHigh i] else []

@[simp] theorem accumulate_ax (i : Axis) (s : State) :
    (accumulate i s).ax = s.ax.set i (movedAxis s.cfg (s.ax.get i)) := by
  unfold accumulate movedAxis; dsimp only; split <;> [split <;> simp; simp]
@[simp] theorem accumulate_pin (i : Axis) (s : State) :
    (accumulate i s).pin = s.pin.set i (movedPin (s.ax.get i) (s.pin.get i)) := by
  unfold accumulate movedPin takesStep; dsimp only; split <;> [split <;> simp [*]; simp [*]]
@[simp] theorem accumulate_trace (i : Axis) (s : State) :
    (accumulate i s).trace = s.trace ++ moveEvents i (s.ax.get i) := by
  unfold accumulate moveEvents takesStep; dsimp only; split <;> [split <;> simp [*]; simp [*]]

theorem moved_ax (s : State) (i : Axis) : (s.forAxes accumulate).ax.get i = movedAxis s.cfg (s.ax.get i) := by
  cases i <;> simp [State.forAxes, PerAxis.get_set]
theorem moved_pin (s : State) (i : Axis) :
    (s.forAxes accumulate).pin.get i = movedPin (s.ax.get i) (s.pin.get i) := by
  cases i <;> simp [State.forAxes, PerAxis.get_set]
theorem moved_trace (s : State) :
    (s.forAxes accumulate).trace =
      s.trace ++ (moveEvents .x s.ax.x ++ moveEvents .y s.ax.y ++ moveEvents .z s.ax.z) := by
  simp [State.forAxes, PerAxis.set, PerAxis.get]

/-- What TICK_HF can do (R260): outside Running, phase 1 alone; in Running, phases 1 and 2 and the completion check. -/
theorem tickHf_cases (s : State) :
    (s.fsm ≠ .running ∧ tickHf s = s.forAxes closePulse) ∨
      (s.fsm = .running ∧ tickHf s = completionCheck ((s.forAxes closePulse).forAxes accumulate)) := by
  have h : (s.forAxes closePulse).fsm = s.fsm := by simp [State.forAxes]
  unfold tickHf
  by_cases hr : s.fsm = .running
  · exact .inr ⟨hr, by simp [h, hr]⟩
  · exact .inl ⟨hr, by simp [h, hr]⟩

/-- What the completion check can do (R267). -/
theorem completionCheck_cases (s : State) :
    (segmentDone s = true ∧ s.q.count ≠ 0#16 ∧ completionCheck s = beginNext true s) ∨
      (segmentDone s = true ∧ s.q.count = 0#16 ∧ linesLow s = true ∧
        completionCheck s = pushMoveEnd s.seg.fid s.cfg.stOk ((stopAllAxes s).setFsm .done)) ∨
      (completionCheck s = s ∧ (segmentDone s = false ∨ s.q.count = 0#16 ∧ linesLow s = false)) := by
  unfold completionCheck
  dsimp only
  split
  · split
    · exact .inl ⟨‹_›, ‹_›, rfl⟩
    · rename_i hq
      split
      · exact .inr (.inl ⟨‹_›, by simpa using hq, ‹_›, rfl⟩)
      · rename_i hl
        exact .inr (.inr ⟨rfl, .inr ⟨by simpa using hq, by simpa using hl⟩⟩)
  · rename_i hd
    exact .inr (.inr ⟨rfl, .inl (by simpa using hd)⟩)

/-! ### Start, end (R233, R236) -/

/-- What `start_move()` can do (R233). -/
theorem startMove_cases (s : State) :
    (s.seg.active = true ∧ startMove s = s.setFsm .running) ∨
      (s.seg.active = false ∧ s.q.count ≠ 0#16 ∧ startMove s = (beginNext false s).setFsm .running) ∨
      (s.seg.active = false ∧ s.q.count = 0#16 ∧ startMove s = s) := by
  unfold startMove
  split
  · exact .inl ⟨‹_›, rfl⟩
  · rename_i ha
    have ha : s.seg.active = false := by simpa using ha
    split
    · exact .inr (.inl ⟨ha, ‹_›, rfl⟩)
    · rename_i hq
      exact .inr (.inr ⟨ha, by simpa using hq, rfl⟩)

@[simp] theorem moveEnd_fsm (a b : Byte) (s : State) : (moveEnd a b s).fsm = .idle := rfl
@[simp] theorem moveEnd_ax (a b : Byte) (s : State) : (moveEnd a b s).ax = .same .zero := by simp [moveEnd]
@[simp] theorem moveEnd_pin (a b : Byte) (s : State) (i : Axis) :
    (moveEnd a b s).pin.get i = { s.pin.get i with step := false, en := false } := by simp [moveEnd]
@[simp] theorem moveEnd_seg (a b : Byte) (s : State) : (moveEnd a b s).seg = { s.seg with active := false } := by
  simp [moveEnd]
@[simp] theorem moveEnd_q (a b : Byte) (s : State) : (moveEnd a b s).q = s.clearQueue.q := by simp [moveEnd]
@[simp] theorem moveEnd_trace (a b : Byte) (s : State) :
    (moveEnd a b s).trace =
      s.trace ++ (stopEvents .x s.pin.x ++ stopEvents .y s.pin.y ++ stopEvents .z s.pin.z) := by simp [moveEnd]

/-! ### TICK_LF (R280, R281) -/

@[simp] theorem encoderUpdate_enc (r : PerAxis U32) (i : Axis) (s : State) :
    (encoderUpdate r i s).enc = s.enc.set i (sampledEnc (s.cfg.encWidth.get i) (r.get i) (s.enc.get i)) := rfl
theorem sampled_enc (r : PerAxis U32) (s : State) (i : Axis) :
    (s.forAxes (encoderUpdate r)).enc.get i = sampledEnc (s.cfg.encWidth.get i) (r.get i) (s.enc.get i) := by
  cases i <;> simp [State.forAxes, PerAxis.get_set]
@[simp] theorem tickLf_enc (r : PerAxis U32) (s : State) (i : Axis) :
    (tickLf r s).enc.get i = sampledEnc (s.cfg.encWidth.get i) (r.get i) (s.enc.get i) := by
  unfold tickLf; dsimp only
  split <;> simp [State.forAxes, PerAxis.get_set] <;> cases i <;> simp

@[simp] theorem errorUpdate_ax (i : Axis) (s : State) :
    (errorUpdate i s).ax = s.ax.set i { s.ax.get i with err := BitVec.ofInt 32 (positionError s i) } := rfl

/-- `position_error(i)` reads axis `i` alone. -/
theorem positionError_congr {s t : State} {i : Axis} (hc : t.cfg = s.cfg) (ha : t.ax.get i = s.ax.get i)
    (hp : t.pin = s.pin) (he : t.enc = s.enc) (hl : t.ctl = s.ctl) : positionError t i = positionError s i := by
  simp [positionError, measured, hc, ha, hp, he, hl]

theorem erred_ax (s : State) (i : Axis) :
    (s.forAxes errorUpdate).ax.get i = { s.ax.get i with err := BitVec.ofInt 32 (positionError s i) } := by
  cases i
  · simp [State.forAxes, PerAxis.get_set]
  · have h := positionError_congr (s := s) (t := errorUpdate .x s) (i := .y) (by simp) (by simp [PerAxis.get_set])
      (by simp) (by simp) (by simp)
    simp [State.forAxes, PerAxis.get_set, h]
  · have h := positionError_congr (s := s) (t := errorUpdate .y (errorUpdate .x s)) (i := .z) (by simp)
      (by simp [PerAxis.get_set]) (by simp) (by simp) (by simp)
    simp [State.forAxes, PerAxis.get_set, h]

/-- The axis after steps (3) to (7). -/
def controlledAxis (s : State) (m : Option Axis) (dec : PerAxis Bool) (i : Axis) : AxisState :=
  let a := s.ax.get i
  if a.total = 0#32 then a else controlAxis s.cfg s.ctl.frictionEn (m.isSome && m != some i) (dec.get i) a

@[simp] theorem controlUpdate_ax (m : Option Axis) (dec : PerAxis Bool) (i : Axis) (s : State) :
    (controlUpdate m dec i s).ax = s.ax.set i (controlledAxis s m dec i) := by
  unfold controlUpdate controlledAxis; dsimp only; split <;> simp

theorem controlled_ax (m : Option Axis) (dec : PerAxis Bool) (s : State) (i : Axis) :
    (s.forAxes (controlUpdate m dec)).ax.get i = controlledAxis s m dec i := by
  cases i <;> simp [State.forAxes, PerAxis.get_set, controlledAxis]

/-- The state before master selection: encoders sampled, errors written (R280). -/
def erredState (r : PerAxis U32) (s : State) : State := (s.forAxes (encoderUpdate r)).forAxes errorUpdate

theorem erredState_eq (r : PerAxis U32) (s : State) :
    erredState r s = (s.forAxes (encoderUpdate r)).forAxes errorUpdate := rfl

/-- What TICK_LF can do to the axes and the control registers (R280, R282). -/
theorem tickLf_cases (r : PerAxis U32) (s : State) :
    (s.fsm ≠ .running ∧ (tickLf r s).ax = s.ax ∧ (tickLf r s).ctl = { s.ctl with master := none }) ∨
      (s.fsm = .running ∧
        (tickLf r s).ctl = { s.ctl with master := selectMaster (erredState r s) } ∧
        ∀ i, (tickLf r s).ax.get i =
          controlledAxis (erredState r s) (selectMaster (erredState r s))
            (.of (brakeDecision ((erredState r s).setCtl { s.ctl with master := selectMaster (erredState r s) })
              (selectMaster (erredState r s)))) i) := by
  have hf : (s.forAxes (encoderUpdate r)).fsm = s.fsm := by simp [State.forAxes]
  have hc : (erredState r s).ctl = s.ctl := by simp [erredState, State.forAxes]
  by_cases hr : s.fsm = .running
  · refine .inr ⟨hr, ?_, fun i => ?_⟩
    · unfold tickLf; dsimp only; rw [if_neg (by simp [hf, hr])]
      rw [← erredState_eq]
      simp [State.forAxes, hc]
    · unfold tickLf; dsimp only; rw [if_neg (by simp [hf, hr])]
      rw [← erredState_eq]
      rw [controlled_ax, hc]
      simp [controlledAxis, hc]
  · refine .inl ⟨hr, ?_, ?_⟩ <;> unfold tickLf <;> dsimp only <;> rw [if_pos (by simp [hf, hr])] <;>
      simp [State.forAxes]

end Sys2Proof.Machine
end

