-- ==== Sys2Proof/Laws/Fifo.lean ====
section
/-! SUPPORT. The response FIFO (42_fifo_handshake.md R200 to R206): what a push, a pop and a `push_resp` can do, in terms
of the frames held. -/

namespace Sys2Proof.Machine

/-! ### The ring -/

/-- Two places of a ring that are less than a turn apart differ. -/
theorem ring_ne {n h j c : Nat} (hj : j < c) (hc : c < n) : (h + j) % n ≠ (h + c) % n := by
  intro e
  have e : j % n = c % n := Nat.ModEq.add_left_cancel' h e
  rw [Nat.mod_eq_of_lt (hj.trans hc), Nat.mod_eq_of_lt hc] at e
  omega

/-- The place after the head is the next head's place. -/
theorem ring_succ (n h j : Nat) : ((h + 1) % n + j) % n = (h + (j + 1)) % n := by
  rw [Nat.mod_add_mod]; congr 1; omega

theorem Config.respFifoCap_pos {c : Config} (h : c.wf = true) : 0 < c.respFifoCap := by
  simp [Config.wf, Config.numbersOk] at h; omega

theorem Config.respFifoCap_lt {c : Config} (h : c.wf = true) : c.respFifoCap < 256 := by
  simp [Config.wf, Config.widthsOk] at h; omega

/-! ### Lengths -/

@[simp] theorem overlay_length {f d : List Byte} (h : f.length ≤ d.length) : (overlay f d).length = d.length := by
  simp [overlay]; omega

theorem overlay_take (f d : List Byte) : (overlay f d).take f.length = f := by simp [overlay]

theorem byteAt_overlay_ge {f d : List Byte} {b : Nat} (h : f.length ≤ b) : byteAt (overlay f d) b = byteAt d b := by
  simp [byteAt, overlay, List.getD_eq_getElem?_getD, List.getElem?_append_right h, List.getElem?_drop]
  congr 2; omega

@[simp] theorem heldFrames_length (c : Config) (r : RespFifo) : (heldFrames c r).length = r.count.toNat := by
  simp [heldFrames]

theorem fifoSlot_mem {r : RespFifo} {k : Nat} (h : k < r.slots.length) : fifoSlot r k ∈ r.slots := by
  simp [fifoSlot, List.getD_eq_getElem?_getD, h]

theorem fifoIndex_lt {c : Config} {r : RespFifo} (h : FifoOk c r) (j : Nat) : fifoIndex c r j < r.slots.length := by
  rw [h.slots]; exact Nat.mod_lt _ (lt_of_le_of_lt (Nat.zero_le _) h.head)

/-- A held frame has the length its slot says, 1 to FRAME_MAX. -/
theorem FifoOk.heldFrame_length {c : Config} {r : RespFifo} (h : FifoOk c r) {j : Nat} (hj : j < r.count.toNat) :
    (heldFrame c r j).length = (fifoSlot r (fifoIndex c r j)).len.toNat := by
  have hd := h.data _ (fifoSlot_mem (fifoIndex_lt h j))
  have := (h.lens j hj).2
  simp [heldFrame, hd]; omega

/-! ### Push (R201) -/

/-- The FIFO after a push that succeeds (R201). -/
def pushedFifo (c : Config) (f : List Byte) (r : RespFifo) : RespFifo :=
  let k := fifoIndex c r r.count.toNat
  { r with
    slots := r.slots.set k ⟨BitVec.ofNat 8 f.length, overlay f (fifoSlot r k).data⟩
    count := r.count + 1#8 }

theorem push_eq {s : State} {f : List Byte} (h1 : 1 ≤ f.length) (h2 : f.length ≤ 42)
    (hc : s.rf.count.toNat ≠ s.cfg.respFifoCap) : s.push (some f) = .ok (s.setRf (pushedFifo s.cfg f s.rf)) := by
  unfold State.push
  simp only
  rw [if_neg (by unfold frameMax; omega), if_neg hc]
  rfl

theorem pushedFifo_slot_same {c : Config} {r : RespFifo} (h : FifoOk c r) (f : List Byte) :
    fifoSlot (pushedFifo c f r) (fifoIndex c r r.count.toNat) =
      ⟨BitVec.ofNat 8 f.length, overlay f (fifoSlot r (fifoIndex c r r.count.toNat)).data⟩ := by
  have hk := fifoIndex_lt h r.count.toNat
  simp [pushedFifo, fifoSlot, List.getD_eq_getElem?_getD, hk]

theorem pushedFifo_slot_other (c : Config) (r : RespFifo) (f : List Byte) {k : Nat}
    (hk : k ≠ fifoIndex c r r.count.toNat) : fifoSlot (pushedFifo c f r) k = fifoSlot r k := by
  simp [pushedFifo, fifoSlot, List.getD_eq_getElem?_getD, List.getElem?_set_ne (Ne.symm hk)]

theorem pushedFifo_count {c : Config} {r : RespFifo} (hw : c.wf = true) (hc : r.count.toNat < c.respFifoCap)
    (f : List Byte) : (pushedFifo c f r).count.toNat = r.count.toNat + 1 := by
  have := Config.respFifoCap_lt hw
  simp only [pushedFifo, BitVec.toNat_add]
  simp; omega

/-- A push that succeeds appends the frame to the held ones and keeps the invariant (R201, R205). -/
theorem FifoOk.pushed {c : Config} {r : RespFifo} (h : FifoOk c r) (hw : c.wf = true) {f : List Byte}
    (h1 : 1 ≤ f.length) (h2 : f.length ≤ 42) (hc : r.count.toNat < c.respFifoCap) :
    FramePushed c f r (pushedFifo c f r) ∧ FifoOk c (pushedFifo c f r) := by
  have hcount := pushedFifo_count hw hc f
  have hidx : ∀ j, fifoIndex c (pushedFifo c f r) j = fifoIndex c r j := fun j => rfl
  have hne : ∀ j < r.count.toNat, fifoIndex c r j ≠ fifoIndex c r r.count.toNat := fun j hj => ring_ne hj hc
  have hdata := h.data _ (fifoSlot_mem (fifoIndex_lt h r.count.toNat))
  have hlen : (BitVec.ofNat 8 f.length).toNat = f.length := by simp; omega
  refine ⟨⟨?_, rfl, hcount, fun k hk => pushedFifo_slot_other c r f hk, fun b hb => ?_⟩, ⟨?_, ?_, h.head, ?_, ?_⟩⟩
  · simp only [heldFrames, hcount, List.range_succ, List.map_append, List.map_cons, List.map_nil]
    congr 1
    · apply List.map_congr_left
      intro j hj
      simp only [heldFrame, hidx, pushedFifo_slot_other c r f (hne j (List.mem_range.mp hj))]
    · simp only [heldFrame, hidx, pushedFifo_slot_same h, hlen, overlay_take]
  · rw [pushedFifo_slot_same h]; exact byteAt_overlay_ge hb
  · simp [pushedFifo, h.slots]
  · intro t ht
    rcases List.mem_or_eq_of_mem_set ht with ht | rfl
    · exact h.data t ht
    · simp only [frameMax] at *; rw [overlay_length (by omega)]; exact hdata
  · omega
  · intro j hj
    rw [hcount] at hj
    rw [hidx]
    rcases Nat.lt_succ_iff_lt_or_eq.mp hj with hj | rfl
    · rw [pushedFifo_slot_other c r f (hne j hj)]; exact h.lens j hj
    · rw [pushedFifo_slot_same h]; simp only [hlen, frameMax]; omega

/-! ### `push_resp` (R201, R202) -/

/-- What `push_resp` can do: the frame is pushed, or the FIFO is full and the loss is counted. -/
theorem pushResp_cases {s : State} {f : List Byte} (h1 : 1 ≤ f.length) (h2 : f.length ≤ 42) :
    (s.rf.count.toNat ≠ s.cfg.respFifoCap ∧ s.pushResp f = s.setRf (pushedFifo s.cfg f s.rf)) ∨
      (s.rf.count.toNat = s.cfg.respFifoCap ∧ s.pushResp f = s.countRespDrop) := by
  by_cases hc : s.rf.count.toNat = s.cfg.respFifoCap
  · refine .inr ⟨hc, ?_⟩
    have : s.push (some f) = .error .allocationError := by
      unfold State.push; simp only
      rw [if_neg (by unfold frameMax; omega), if_pos hc]
    simp [State.pushResp, this]
  · exact .inl ⟨hc, by simp [State.pushResp, push_eq h1 h2 hc]⟩

theorem pushResp_responded {s : State} {f : List Byte} (hw : s.cfg.wf = true) (h : FifoOk s.cfg s.rf)
    (h1 : 1 ≤ f.length) (h2 : f.length ≤ 42) : Responded f s (s.pushResp f) := by
  unfold Responded
  rcases pushResp_cases (s := s) h1 h2 with ⟨hc, he⟩ | ⟨hc, he⟩
  · rw [if_neg hc, he]
    exact ⟨(h.pushed hw h1 h2 (lt_of_le_of_ne h.count hc)).1, rfl⟩
  · rw [if_pos hc, he]
    exact ⟨rfl, rfl⟩

theorem pushResp_fifoOk {s : State} {f : List Byte} (hw : s.cfg.wf = true) (h : FifoOk s.cfg s.rf)
    (h1 : 1 ≤ f.length) (h2 : f.length ≤ 42) : FifoOk s.cfg (s.pushResp f).rf := by
  rcases pushResp_cases (s := s) h1 h2 with ⟨hc, he⟩ | ⟨hc, he⟩ <;> rw [he]
  · exact (h.pushed hw h1 h2 (lt_of_le_of_ne h.count hc)).2
  · exact h

/-! ### Pop (R203) -/

/-- The FIFO after a pop that succeeds (R203). -/
def poppedFifo (c : Config) (r : RespFifo) : RespFifo :=
  { r with head := BitVec.ofNat 8 ((r.head.toNat + 1) % c.respFifoCap), count := r.count - 1#8 }

/-- The slot of the oldest frame is the head's. -/
theorem FifoOk.headIndex {c : Config} {r : RespFifo} (h : FifoOk c r) : fifoIndex c r 0 = r.head.toNat := by
  simp [fifoIndex, Nat.mod_eq_of_lt h.head]

/-- What a pop can do: nothing held, too small a buffer, or the oldest frame. -/
theorem FifoOk.pop_cases {s : State} (h : FifoOk s.cfg s.rf) (cap : Nat) :
    (s.held = [] ∧ s.pop cap = .ok ⟨0#8, [], s⟩) ∨
      ∃ f rest, s.held = f :: rest ∧ 1 ≤ f.length ∧ f.length ≤ 42 ∧
        (cap < f.length → s.pop cap = .error .rangeError) ∧
        (f.length ≤ cap → s.pop cap = .ok ⟨BitVec.ofNat 8 f.length, f, s.setRf (poppedFifo s.cfg s.rf)⟩) := by
  by_cases hc : s.rf.count = 0#8
  · refine .inl ⟨by simp [State.held, heldFrames, hc], by simp [State.pop, hc]⟩
  · have hpos : 0 < s.rf.count.toNat := by
      rcases Nat.eq_zero_or_pos s.rf.count.toNat with h0 | h0
      · exact absurd (BitVec.eq_of_toNat_eq (by simpa using h0)) hc
      · exact h0
    have hl := h.heldFrame_length hpos
    have hb := h.lens 0 hpos
    rw [h.headIndex] at hl hb
    refine .inr ⟨heldFrame s.cfg s.rf 0, ((List.range (s.rf.count.toNat - 1)).map Nat.succ).map (heldFrame s.cfg s.rf),
      ?_, by omega, by simpa [frameMax] using hl ▸ hb.2, fun hlt => ?_, fun hle => ?_⟩
    · have : s.rf.count.toNat = (s.rf.count.toNat - 1) + 1 := by omega
      simp only [State.held, heldFrames]
      conv_lhs => rw [this, List.range_succ_eq_map]
      simp
    · unfold State.pop; rw [if_neg hc]; simp only
      rw [if_pos (by omega)]
    · unfold State.pop; rw [if_neg hc]; simp only
      rw [if_neg (by omega)]
      have e : BitVec.ofNat 8 (heldFrame s.cfg s.rf 0).length = (fifoSlot s.rf s.rf.head.toNat).len := by
        rw [hl]; simp
      rw [e]
      simp only [heldFrame, h.headIndex, poppedFifo]

theorem FifoOk.popped {c : Config} {r : RespFifo} (h : FifoOk c r) (hw : c.wf = true) (hc : 0 < r.count.toNat) :
    FramePopped c r (poppedFifo c r) ∧ FifoOk c (poppedFifo c r) := by
  have hcap := Config.respFifoCap_lt hw
  have hpos := Config.respFifoCap_pos hw
  have hhead : (poppedFifo c r).head.toNat = (r.head.toNat + 1) % c.respFifoCap := by
    have := Nat.mod_lt (r.head.toNat + 1) hpos
    simp [poppedFifo]; omega
  have hcount : (poppedFifo c r).count.toNat = r.count.toNat - 1 := by
    have := r.count.isLt
    simp only [poppedFifo, BitVec.toNat_sub]; simp; omega
  have hidx : ∀ j, fifoIndex c (poppedFifo c r) j = fifoIndex c r (j + 1) := by
    intro j; simp only [fifoIndex, hhead]; exact ring_succ _ _ _
  have hslot : ∀ k, fifoSlot (poppedFifo c r) k = fifoSlot r k := fun k => rfl
  refine ⟨⟨?_, hhead, by omega, rfl⟩, ⟨h.slots, h.data, ?_, ?_, ?_⟩⟩
  · have e : r.count.toNat = (r.count.toNat - 1) + 1 := by omega
    simp only [heldFrames, hcount]
    conv_rhs => rw [e, List.range_succ_eq_map]
    simp only [List.map_cons, List.tail_cons, List.map_map]
    apply List.map_congr_left
    intro j _
    simp only [heldFrame, hidx, hslot, Function.comp_apply]
  · rw [hhead]; exact Nat.mod_lt _ hpos
  · have := h.count; omega
  · intro j hj
    rw [hcount] at hj
    rw [hidx, hslot]
    exact h.lens (j + 1) (by omega)

end Sys2Proof.Machine
end

