-- ==== Sys2Proof/Laws/Queue.lean ====
section
/-! SUPPORT. The move queue (43_motion_fsm.md R220 to R222): what an enqueue, a dequeue and a clear can do, in terms of the
segments held, and that each keeps the queue invariant (R27, R223). -/

namespace Sys2Proof.Machine

theorem Config.qcap_pos {c : Config} (h : c.wf = true) : 0 < c.qcap := by
  simp [Config.wf, Config.numbersOk] at h; omega

theorem Config.qcap_lt {c : Config} (h : c.wf = true) : c.qcap < 65536 := by
  simp [Config.wf, Config.widthsOk] at h; omega

@[simp] theorem queuedSegments_length (c : Config) (q : Queue) : (queuedSegments c q).length = q.count.toNat := by
  simp [queuedSegments]

/-- The sum of the queued steps cannot reach 2^64: at most 65535 segments of less than 2^32 steps. -/
theorem sum_steps_lt (l : List MoveSegment) (i : Axis) :
    (l.map fun g => (g.steps.get i).toNat).sum ≤ l.length * 4294967295 := by
  induction l with
  | nil => simp
  | cons g l ih =>
    have := (g.steps.get i).isLt
    simp only [List.map_cons, List.sum_cons, List.length_cons]; omega

/-! ### Enqueue (R220) -/

/-- The queue after an enqueue that succeeds (R220). -/
def enqueuedQueue (c : Config) (g : MoveSegment) (q : Queue) : Queue where
  slots := q.slots.set q.tail.toNat g
  head := q.head
  tail := BitVec.ofNat 16 ((q.tail.toNat + 1) % c.qcap)
  count := q.count + 1#16
  qsum := .of fun i => q.qsum.get i + (g.steps.get i).setWidth 64

/-- What an enqueue can do (R220). -/
theorem enqueue_cases (g : MoveSegment) (s : State) :
    (s.q.count.toNat = s.cfg.qcap ∧ s.enqueue g = .error .rangeError) ∨
      (s.q.count.toNat ≠ s.cfg.qcap ∧
        s.enqueue g = .ok (((s.setQ (enqueuedQueue s.cfg g s.q)).setAx (.of fun i =>
          if g.steps.get i ≠ 0#32 then { s.ax.get i with braking := false } else s.ax.get i)).setFsm
            (if s.fsm = .idle ∨ s.fsm = .done then Fsm.queued else s.fsm))) := by
  unfold State.enqueue
  by_cases h : s.q.count.toNat = s.cfg.qcap
  · exact .inl ⟨h, by rw [if_pos h]⟩
  · exact .inr ⟨h, by rw [if_neg h]; rfl⟩

/-- An enqueue appends the segment to the held ones and keeps the invariant (R220, R223). -/
theorem QueueOk.enqueued {c : Config} {q : Queue} (h : QueueOk c q) (hw : c.wf = true)
    (hc : q.count.toNat < c.qcap) (g : MoveSegment) :
    Enqueued c g q (enqueuedQueue c g q) ∧ QueueOk c (enqueuedQueue c g q) := by
  have hcap := Config.qcap_lt hw
  have hpos := Config.qcap_pos hw
  have htl : q.tail.toNat < c.qcap := by rw [h.tail]; exact Nat.mod_lt _ hpos
  have hcount : (enqueuedQueue c g q).count.toNat = q.count.toNat + 1 := by
    simp only [enqueuedQueue, BitVec.toNat_add]; simp; omega
  have htail : (enqueuedQueue c g q).tail.toNat = (q.tail.toNat + 1) % c.qcap := by
    have := Nat.mod_lt (q.tail.toNat + 1) hpos
    simp [enqueuedQueue]; omega
  have hstored : queueSlot (enqueuedQueue c g q) q.tail.toNat = g := by
    simp [enqueuedQueue, queueSlot, List.getD_eq_getElem?_getD, h.slots, htl]
  have hother : ∀ k, k ≠ q.tail.toNat → queueSlot (enqueuedQueue c g q) k = queueSlot q k := by
    intro k hk
    simp [enqueuedQueue, queueSlot, List.getD_eq_getElem?_getD, List.getElem?_set_ne (Ne.symm hk)]
  have hseg : queuedSegments c (enqueuedQueue c g q) = queuedSegments c q ++ [g] := by
    simp only [queuedSegments, hcount, List.range_succ, List.map_append, List.map_cons, List.map_nil]
    have hh : (enqueuedQueue c g q).head = q.head := rfl
    rw [hh, ← h.tail, hstored]
    congr 1
    apply List.map_congr_left
    intro j hj
    rw [hother]
    rw [h.tail]
    exact ring_ne (List.mem_range.mp hj) hc
  have hqsum : ∀ i, ((enqueuedQueue c g q).qsum.get i).toNat = (q.qsum.get i).toNat + (g.steps.get i).toNat := by
    intro i
    have hb := sum_steps_lt (queuedSegments c q) i
    rw [← h.qsum i, queuedSegments_length] at hb
    have hs := (g.steps.get i).isLt
    simp only [enqueuedQueue, PerAxis.get_of, BitVec.toNat_add, BitVec.toNat_setWidth]
    rw [Nat.mod_eq_of_lt (a := (g.steps.get i).toNat) (by omega)]
    omega
  refine ⟨⟨hseg, rfl, htail, hcount, hqsum, hstored, hother⟩, ⟨?_, h.head, by omega, ?_, fun i => ?_⟩⟩
  · simp [enqueuedQueue, h.slots]
  · rw [htail, hcount, h.tail]
    show _ = (q.head.toNat + (q.count.toNat + 1)) % c.qcap
    rw [Nat.mod_add_mod]; congr 1
  · rw [hqsum, hseg, h.qsum]; simp

/-! ### Dequeue (R221) -/

theorem QueueOk.dequeued {s : State} (h : QueueOk s.cfg s.q) (hw : s.cfg.wf = true) (hc : s.q.count ≠ 0#16) :
    Dequeued s.cfg s.headSegment s.q s.dequeue.q ∧ QueueOk s.cfg s.dequeue.q := by
  have hcap := Config.qcap_lt hw
  have hpos := Config.qcap_pos hw
  have hn : 0 < s.q.count.toNat := by
    rcases Nat.eq_zero_or_pos s.q.count.toNat with h0 | h0
    · exact absurd (BitVec.eq_of_toNat_eq (by simpa using h0)) hc
    · exact h0
  have hcount : s.dequeue.q.count.toNat + 1 = s.q.count.toNat := by
    have := s.q.count.isLt
    simp only [State.dequeue, State.setQ, BitVec.toNat_sub]; simp; omega
  have hhead : s.dequeue.q.head.toNat = (s.q.head.toNat + 1) % s.cfg.qcap := by
    have := Nat.mod_lt (s.q.head.toNat + 1) hpos
    simp [State.dequeue, State.setQ]; omega
  have hseg : queuedSegments s.cfg s.q = s.headSegment :: queuedSegments s.cfg s.dequeue.q := by
    have e : s.q.count.toNat = s.dequeue.q.count.toNat + 1 := hcount.symm
    simp only [queuedSegments]
    rw [e, List.range_succ_eq_map, List.map_cons, List.map_map]
    congr 1
    · simp [State.headSegment, Nat.mod_eq_of_lt h.head]
    · apply List.map_congr_left
      intro j _
      simp only [Function.comp_apply, hhead]
      rw [ring_succ]; rfl
  have hqsum : ∀ i, (s.dequeue.q.qsum.get i).toNat + (s.headSegment.steps.get i).toNat = (s.q.qsum.get i).toNat := by
    intro i
    have hq := h.qsum i
    rw [hseg, List.map_cons, List.sum_cons] at hq
    have h1 := (s.q.qsum.get i).isLt
    have h2 := (s.headSegment.steps.get i).isLt
    simp only [State.dequeue, State.setQ, PerAxis.get_of, BitVec.toNat_sub, BitVec.toNat_setWidth]
    rw [Nat.mod_eq_of_lt (a := (s.headSegment.steps.get i).toNat) (by omega)]
    omega
  refine ⟨⟨hseg, hhead, rfl, hcount, hqsum, rfl⟩, ⟨h.slots, by rw [hhead]; exact Nat.mod_lt _ hpos, ?_, ?_, fun i => ?_⟩⟩
  · have := h.count; omega
  · have : s.dequeue.q.tail = s.q.tail := rfl
    rw [this, h.tail, hhead, Nat.mod_add_mod]; congr 1; omega
  · have hq := h.qsum i
    rw [hseg, List.map_cons, List.sum_cons] at hq
    have := hqsum i; omega

/-! ### Clear (R222) -/

theorem QueueOk.cleared {s : State} (h : QueueOk s.cfg s.q) (hw : s.cfg.wf = true) : QueueOk s.cfg s.clearQueue.q := by
  have hpos := Config.qcap_pos hw
  refine ⟨h.slots, hpos, Nat.zero_le _, ?_, fun i => ?_⟩
  · simp [State.clearQueue, State.setQ, Nat.mod_eq_of_lt hpos]
  · simp [State.clearQueue, State.setQ, queuedSegments]

end Sys2Proof.Machine
end

