-- ==== Sys2Proof/Laws/Motion.lean ====
section
/-! SUPPORT. Begin, start and stop as claims use them (43_motion_fsm.md R230 to R236), the velocity maps' bounds
(45_control_loop.md R292, R293) and the pushes of the engine. -/

namespace Sys2Proof.Machine

/-! ### Configurations -/

theorem Config.pulse_bounds {c : Config} (h : c.wf = true) :
    1 ≤ c.pulseHigh ∧ c.pulseHigh < 2 ^ 32 ∧ c.pulseLow < 2 ^ 32 ∧ c.enSettle < 2 ^ 32 ∧ c.dirSettle < 2 ^ 32 ∧
      1 ≤ c.fHf ∧ 1 ≤ c.vFloor ∧ 1 ≤ c.fLf := by
  simp [Config.wf, Config.numbersOk, Config.widthsOk] at h; omega

/-! ### The increment (R293) -/

/-- Below V_MAX the increment is `v * ONE / (F_HF - (H + L - 1) * v)`, below ONE (R293). -/
theorem velToIncr_lt {c : Config} (h : c.wf = true) {v : Nat} (hv : v < c.vMax) :
    v * one / (c.fHf - (c.pulseHigh + c.pulseLow - 1) * v) < one := by
  obtain ⟨hp, -⟩ := Config.pulse_bounds h
  have h1 : (c.pulseHigh + c.pulseLow) * (v + 1) ≤ c.fHf := by
    calc (c.pulseHigh + c.pulseLow) * (v + 1) ≤ (c.pulseHigh + c.pulseLow) * c.vMax := Nat.mul_le_mul_left _ hv
      _ ≤ c.fHf := Nat.mul_div_le _ _
  have h2 : (c.pulseHigh + c.pulseLow) * (v + 1) = (c.pulseHigh + c.pulseLow - 1) * v + v + (c.pulseHigh + c.pulseLow) := by
    obtain ⟨b, hb⟩ : ∃ b, c.pulseHigh + c.pulseLow = b + 1 := ⟨c.pulseHigh + c.pulseLow - 1, by omega⟩
    rw [hb]; simp; ring
  apply Nat.div_lt_of_lt_mul
  apply Nat.mul_lt_mul_of_pos_right
  · omega
  · decide

/-- "at most ONE" (R293). -/
theorem velToIncr_le {c : Config} (h : c.wf = true) (v : Nat) : velToIncr c v ≤ one := by
  unfold velToIncr
  split
  · exact Nat.zero_le _
  · split
    · exact le_rfl
    · exact Nat.le_of_lt (velToIncr_lt h (by omega))

/-! ### Begin (R230) -/

/-- The settle holds of a begin touch nothing else. -/
theorem beginSettle_eq (c : Config) (g : MoveSegment) (i : Axis) (p : Pin) (a : AxisState) :
    beginSettle c g i p a = { a with
      dirSettle := if maskBit g.dirMask i = p.dir then a.dirSettle else BitVec.ofNat 32 c.dirSettle
      enSettle := if g.steps.get i ≠ 0#32 ∧ p.en = false then BitVec.ofNat 32 c.enSettle else a.enSettle } := by
  unfold beginSettle
  by_cases h1 : maskBit g.dirMask i = p.dir <;> by_cases h2 : g.steps.get i ≠ 0#32 ∧ p.en = false <;>
    simp only [h1, h2, ne_eq, not_true_eq_false, not_false_eq_true, if_true, if_false, and_self]

/-- The velocity a begin leaves (R230). -/
def begunVelocity (c : Config) (g : MoveSegment) (chained : Bool) (i : Axis) (a : AxisState) : U32 :=
  if c.accel = 0 ∧ g.steps.get i ≠ 0#32 then BitVec.ofNat 32 (min (g.vel.get i).toNat c.vMax)
  else if chained = true ∧ g.steps.get i ≠ 0#32 then a.vActual else 0#32

theorem beginLoad_eq (c : Config) (friction : Bool) (g : MoveSegment) (chained : Bool) (i : Axis) (cum : U64)
    (a : AxisState) :
    beginLoad c friction g chained i cum a = { a with
      total := g.steps.get i
      emitted := 0#32
      targetSteps := 0#32
      vCmd := g.vel.get i
      kp := g.kp.get i
      ki := g.ki.get i
      kd := g.kd.get i
      phase := 0#32
      integ := 0#32
      ePrev := 0#32
      dFilt := 0#32
      err := 0#32
      encSegStart := cum
      vTarget := BitVec.ofNat 32 (min (g.vel.get i).toNat c.vMax)
      vActual := begunVelocity c g chained i a
      accFrac := if chained = true ∧ g.steps.get i ≠ 0#32 then a.accFrac else 0#32
      braking := if chained = true ∧ g.steps.get i ≠ 0#32 then a.braking else false
      incr := if g.steps.get i = 0#32 then 0#32
        else BitVec.ofNat 32 (velToIncr c (outVel c friction (begunVelocity c g chained i a).toNat)) } := by
  unfold beginLoad begunVelocity
  cases chained <;> by_cases h1 : g.steps.get i = 0#32 <;> by_cases h2 : c.accel = 0 <;> simp [h1, h2]

/-- What a begin leaves on an axis (R230). -/
theorem begunAxis_spec {s : State} (hw : s.cfg.wf = true) (g : MoveSegment) (chained : Bool) (i : Axis) :
    BegunAxis s.cfg s.ctl.frictionEn chained g i (s.enc.get i).cum (s.ax.get i) (begunAxis g chained i s) (s.pin.get i)
      (beginPin g i (s.pin.get i)) := by
  obtain ⟨-, -, -, hen, hdir, -⟩ := Config.pulse_bounds hw
  have hmin : (BitVec.ofNat 32 (min (g.vel.get i).toNat s.cfg.vMax)).toNat = min (g.vel.get i).toNat s.cfg.vMax := by
    have := (g.vel.get i).isLt
    simp; omega
  unfold begunAxis
  rw [beginSettle_eq, beginLoad_eq]
  refine ⟨rfl, rfl, rfl, rfl, ⟨rfl, rfl, rfl⟩, rfl, ⟨rfl, rfl, rfl, rfl⟩, rfl, hmin, rfl, rfl, rfl, ?_, ⟨rfl, rfl⟩, ?_, ?_,
    rfl⟩
  · show (if _ then _ else _ : U32).toNat = _
    have := velToIncr_le hw (outVel s.cfg s.ctl.frictionEn (begunVelocity s.cfg g chained i (s.ax.get i)).toNat)
    simp only [one] at this
    split
    · rfl
    · simp; omega
  · show (if _ then _ else _ : U32).toNat = _
    split
    · rfl
    · simp; omega
  · show (if _ then _ else _ : U32).toNat = _
    split
    · simp; omega
    · rfl

/-! ### Pushes of the engine -/

/-- A response of the block has 4 to 42 bytes (R95, R102). -/
theorem encodeResp_length {c : Config} (h : c.wf = true) (t : RespType) (r : Record) :
    1 ≤ (encodeResp c t r).length ∧ (encodeResp c t r).length ≤ 42 := by
  obtain ⟨h1, h2, -⟩ := Layout.wf_parts (Config.respLayout_wf h t)
  simp only [encodeResp, encodeFrame_length]; omega

theorem respond_responded {s : State} (hw : s.cfg.wf = true) (h : FifoOk s.cfg s.rf) (t : RespType) (r : Record) :
    Responded (encodeResp s.cfg t r) s (s.pushResp (encodeResp s.cfg t r)) :=
  pushResp_responded hw h (encodeResp_length hw t r).1 (encodeResp_length hw t r).2

theorem respond_fifoOk {s : State} (hw : s.cfg.wf = true) (h : FifoOk s.cfg s.rf) (t : RespType) (r : Record) :
    FifoOk s.cfg (s.pushResp (encodeResp s.cfg t r)).rf :=
  pushResp_fifoOk hw h (encodeResp_length hw t r).1 (encodeResp_length hw t r).2

/-- A push changes the FIFO and the counters alone. -/
theorem pushResp_frame (f : List Byte) (s : State) :
    { s.pushResp f with rf := s.rf, cnt := s.cnt } = s := by
  rcases pushResp_eq f s with h | h <;> rw [h] <;> rfl

theorem depth_toNat (s : State) : s.depth.toNat = min s.q.count.toNat 255 := by
  simp [State.depth]

end Sys2Proof.Machine
end

