-- ==== Sys2Proof/Laws/Control.lean ====
section
/-! SUPPORT. TICK_LF in the terms of claims (45_control_loop.md R281 to R293): the sample, the error, the choice of the
master, and the axis after the control steps. -/

namespace Sys2Proof.Machine

theorem encDelta_eq (w : EncWidth) (last raw : U32) :
    encDelta w.bits last raw = ((raw.toNat % 2 ^ w.bits : Nat) - (last.toNat : Int)).bmod (2 ^ w.bits) := by
  unfold encDelta
  rw [BitVec.toInt_sub, BitVec.toInt_eq_toNat_bmod, BitVec.toInt_eq_toNat_bmod, Int.sub_bmod_bmod, Int.bmod_sub_bmod]
  simp only [BitVec.toNat_setWidth]
  have : ((last.toNat % 2 ^ w.bits : Nat) : Int).bmod (2 ^ w.bits) = (last.toNat : Int).bmod (2 ^ w.bits) := by
    push_cast; rw [show ((2:Int) ^ w.bits) = ((2 ^ w.bits : Nat) : Int) by push_cast; rfl, Int.emod_bmod]
  rw [← Int.sub_bmod_bmod, this, Int.sub_bmod_bmod]

/-- The encoder sample (R281). -/
theorem sampledEnc_spec (w : EncWidth) (raw : U32) (e : Enc) : Sampled w raw e (sampledEnc w raw e) := by
  refine ⟨?_, ?_, rfl⟩
  · rw [← encDelta_eq, BitVec.ofInt_add, BitVec.ofInt_toInt]; rfl
  · simp only [sampledEnc, BitVec.toNat_setWidth]
    have : raw.toNat % 2 ^ w.bits < 2 ^ 32 := by cases w <;> simp [EncWidth.bits] <;> omega
    rw [Nat.mod_eq_of_lt this]

theorem ofInt_toInt_of_bounds {x : Int} (h1 : -2147483648 ≤ x) (h2 : x ≤ 2147483647) :
    (BitVec.ofInt 32 x).toInt = x := by
  rw [BitVec.toInt_ofInt]; exact Int.bmod_eq_of_le (by norm_num; omega) (by norm_num; omega)

theorem clamp_bounds (x : Int) : -2147483648 ≤ clampInt x (-2 ^ 31) (2 ^ 31 - 1) ∧
    clampInt x (-2 ^ 31) (2 ^ 31 - 1) ≤ 2147483647 := by
  unfold clampInt; constructor <;> norm_num

theorem erredState_ax (raw : PerAxis U32) (s : State) (i : Axis) :
   (erredState raw s).ax.get i =
       { s.ax.get i with err := BitVec.ofInt 32 (positionError (s.forAxes (encoderUpdate raw)) i) } := by
  have hax : (s.forAxes (encoderUpdate raw)).ax = s.ax := by simp [State.forAxes]
  rw [erredState, erred_ax, hax]

/-- The error of the tick (R284, R285). -/
theorem erredState_err (raw : PerAxis U32) (s : State) (i : Axis) :
   ((erredState raw s).ax.get i).err.toInt =
      errorRule s.cfg s.ctl.microsteps i (s.pin.get i).dir ((tickLf raw s).enc.get i).cum (s.ax.get i) := by
  rw [erredState_ax, tickLf_enc]
  have hz : (s.ax.get i).total = 0#32 ↔ (s.ax.get i).total.toNat = 0 :=
    ⟨fun h => by rw [h]; rfl, fun h => BitVec.eq_of_toNat_eq (by simpa using h)⟩
  have hax : (s.forAxes (encoderUpdate raw)).ax = s.ax := by simp [State.forAxes]
  have hcfg : (s.forAxes (encoderUpdate raw)).cfg = s.cfg := by simp [State.forAxes]
  have hpin : (s.forAxes (encoderUpdate raw)).pin = s.pin := by simp [State.forAxes]
  have hctl : (s.forAxes (encoderUpdate raw)).ctl = s.ctl := by simp [State.forAxes]
  simp only [positionError, errorRule, hax, hcfg, hz]
  split
  · rfl
  · rw [ofInt_toInt_of_bounds (clamp_bounds _).1 (clamp_bounds _).2]
    simp only [clampInt, measured, encToSteps, quot, hax, hcfg, hpin, hctl, sampled_enc]
    have : ∀ (b : Bool) (m : Int), (if b then m else -m) = (if b then 1 else -1) * m := by intro b m; cases b <;> simp
    rw [this]; norm_num

theorem controlled_err (s : State) (m) (dec) (i) : (controlledAxis s m dec i).err = (s.ax.get i).err := by
  simp only [controlledAxis]; split
  · rfl
  · simp only [controlAxis, ramp, pidUpdate]; split <;> rfl

theorem controlled_frame (s : State) (m) (dec) (i) (a : AxisState)
    (ha : s.ax.get i = { a with err := (s.ax.get i).err }) : { controlledAxis s m dec i with
        err := a.err, dFilt := a.dFilt, integ := a.integ, ePrev := a.ePrev,
        braking := a.braking, accFrac := a.accFrac, vActual := a.vActual,
        incr := a.incr } = a := by
  simp only [controlledAxis];
  split
  · rw [ha]
  · simp only [controlAxis, ramp, pidUpdate]; split <;> rw [ha]

theorem erredState_frame (raw : PerAxis U32) (s : State) : (erredState raw s).cfg = s.cfg ∧
    (erredState raw s).ctl = s.ctl ∧ (erredState raw s).q = s.q ∧ (erredState raw s).pin = s.pin := by
  simp [erredState, State.forAxes]

/-- The axis a strict comparison picks among those that qualify. -/
def bestOf (q : Axis → Bool) (b : Axis → Axis → Bool) : Option Axis := Axis.all.foldl (choose q b) none

theorem bestOf_none (q : Axis → Bool) (b : Axis → Axis → Bool) : bestOf q b = none ↔ ∀ i, q i = false := by
  simp only [bestOf, Axis.all, List.foldl, choose]
  constructor
  · intro h i
    cases hx : q .x <;> cases hy : q .y <;> cases hz : q .z <;> simp [hx, hy, hz] at h <;> first
        | (cases i <;> assumption) | (exfalso; revert h; cases b .z .y <;> cases b .z .x <;> cases b .y .x <;>
        simp <;> (split <;> simp))
  · intro h; simp [h]

/-- The pick qualifies, none that qualifies is better, and it is better than every lower index. -/
theorem bestOf_some (q : Axis → Bool) (b : Axis → Axis → Bool) (ht : ∀ i j k, q i = true → q j = true →
    q k = true → b i j = true → b j k = true → b i k = true)
   (hneg : ∀ i j k, q i = true → q j = true → q k = true → b j i = false → b k j = false → b k i = false)
       (hirr : ∀ i, b i i = false) (hasym : ∀ i j, b i j = true →
       b j i = false) {k : Axis} (h : bestOf q b = some k) :
   q k = true ∧ ∀ j, q j = true → b j k = false ∧ (j.index < k.index → b k j = true) := by
  simp only [bestOf, Axis.all, List.foldl, choose] at h
  cases hx : q .x <;> cases hy : q .y <;> cases hz : q .z <;> simp [hx, hy, hz] at h
  · subst h; exact ⟨hz, fun j hj => by cases j <;> simp_all [Axis.index]⟩
  · subst h; exact ⟨hy, fun j hj => by cases j <;> simp_all [Axis.index]⟩
  · cases hb : b .z .y <;> simp [hb] at h <;> subst h
    · exact ⟨hy, fun j hj => by cases j <;> simp_all [Axis.index]⟩
    · exact ⟨hz, fun j hj => by cases j <;> simp_all [Axis.index]⟩
  · subst h; exact ⟨hx, fun j hj => by cases j <;> simp_all [Axis.index]⟩
  · cases hb : b .z .x <;> simp [hb] at h <;> subst h
    · exact ⟨hx, fun j hj => by cases j <;> simp_all [Axis.index]⟩
    · exact ⟨hz, fun j hj => by cases j <;> simp_all [Axis.index]⟩
  · cases hb : b .y .x <;> simp [hb] at h <;> subst h
    · exact ⟨hx, fun j hj => by cases j <;> simp_all [Axis.index]⟩
    · exact ⟨hy, fun j hj => by cases j <;> simp_all [Axis.index]⟩
  · cases hb : b .y .x <;> simp [hb] at h
    · cases hc : b .z .x <;> simp [hc] at h <;> subst h
      · exact ⟨hx, fun j hj => by cases j <;> simp_all [Axis.index]⟩
      · refine ⟨hz, fun j hj => ?_⟩
        cases j
        · exact ⟨hasym _ _ hc, fun _ => hc⟩
        · have : b .z .y = true := by
            by_contra hn
            have hn : b .z .y = false := by simpa using hn
            have := hneg .x .y .z hx hy hz hb hn
            simp_all
          exact ⟨hasym _ _ this, fun _ => this⟩
        · exact ⟨hirr _, by simp⟩
    · cases hc : b .z .y <;> simp [hc] at h <;> subst h
      · refine ⟨hy, fun j hj => ?_⟩
        cases j
        · exact ⟨hasym _ _ hb, fun _ => hb⟩
        · exact ⟨hirr _, by simp⟩
        · exact ⟨hc, by simp [Axis.index]⟩
      · refine ⟨hz, fun j hj => ?_⟩
        cases j
        · have := ht .z .y .x hz hy hx hc hb
          exact ⟨hasym _ _ this, fun _ => this⟩
        · exact ⟨hasym _ _ hc, fun _ => hc⟩
        · exact ⟨hirr _, by simp⟩

/-- An axis with steps after the tick, from the axis before it and the error of the tick. -/
theorem tickLf_axis (raw : PerAxis U32) (s : State) (i : Axis) (hr : s.fsm = .running) (ht :
    (s.ax.get i).total ≠ 0#32) :
    let m := (tickLf raw s).ctl.master
    let e := ((tickLf raw s).ax.get i).err
    (tickLf raw s).ax.get i =
      controlAxis s.cfg s.ctl.frictionEn (m.isSome && m != some i) (brakeDecision s m i)
        { s.ax.get i with err := e } := by
  rcases tickLf_cases raw s with ⟨h, -⟩ | ⟨-, e1, e2⟩
  · exact absurd hr h
  obtain ⟨f1, f2, f3, f4⟩ := erredState_frame raw s
  have hm : (tickLf raw s).ctl.master = selectMaster (erredState raw s) := by rw [e1]
  intro m e
  have he : e = ((erredState raw s).ax.get i).err := by simp only [e]; rw [e2, controlled_err]
  have hax : (erredState raw s).ax.get i = { s.ax.get i with err := e } := by rw [he, erredState_ax]
  rw [e2, controlledAxis]
  have h0 : ¬ ((erredState raw s).ax.get i).total = 0#32 := by rw [erredState_ax]; exact ht
  have hb : ∀ M, brakeDecision ((erredState raw s).setCtl { s.ctl with master := M }) M i = brakeDecision s M i := by
    intro M
    simp only [brakeDecision, remaining, State.setCtl_cfg, State.setCtl_ax, State.setCtl_q, f1, f3, erredState_ax]
    rfl
  dsimp only
  rw [if_neg h0, PerAxis.get_of, hb, f1, f2, hax, ← hm]

theorem deadbanded_eq (c : Config) (a : AxisState) : deadbanded c a = pidE1 c a.err.toInt := by
  simp only [deadbanded, pidE1, Int.ofNat_le]

theorem derivative_eq (c : Config) (a : AxisState) : derivative c a = pidD c a a.err.toInt := by
  simp only [derivative, pidD, deadbanded_eq, clampInt, asr]; norm_num

theorem pidRaw_eq (c : Config) (a : AxisState) : pidRaw c a = pidU c a a.err.toInt := by
  simp only [pidRaw, pidU, derivative_eq, deadbanded_eq, asr]; norm_num

theorem pidOut_eq (c : Config) (a : AxisState) : pidOut c a = pidClamped c a a.err.toInt := by
  simp only [pidOut, pidClamped, pidRaw_eq, clampInt]

theorem controlAxis_pid (c : Config) (f t d : Bool) (a : AxisState) :
   (controlAxis c f t d a).dFilt = BitVec.ofInt 32 (derivative c a) ∧
       (controlAxis c f t d a).ePrev = BitVec.ofInt 32 (deadbanded c a) ∧
   (controlAxis c f t d a).integ =
       (if pidOut c a = pidRaw c a then
          BitVec.ofInt 32 (clampInt (a.integ.toInt + deadbanded c a) (-c.iClamp) c.iClamp)
        else a.integ) := by
  simp only [controlAxis, ramp]; split <;> exact ⟨rfl, rfl, rfl⟩

theorem controlVelocity_eq (c : Config) (m : Option Axis) (i : Axis) (a : AxisState) :
   (controlVelocity c (m.isSome && m != some i) a : Int) = controlRule c m i a a.err.toInt := by
  have h : ((m.isSome && m != some i) = true) ↔ (m ≠ none ∧ m ≠ some i) := by cases m <;> simp
  unfold controlVelocity controlRule clampInt throttleRule
  rw [pidOut_eq, Int.toNat_of_nonneg]
  · by_cases hc : m ≠ none ∧ m ≠ some i
    · rw [if_pos (h.2 hc), if_pos hc]; rfl
    · rw [if_neg (fun x => hc (h.1 x)), if_neg hc]; rfl
  · have : (0:Int) ≤ (c.vMax : Int) := Int.natCast_nonneg _
    omega

theorem controlRule_bounds (c : Config) (m i a e) : 0 ≤ controlRule c m i a e ∧
    controlRule c m i a e ≤ (c.fHf / (c.pulseHigh + c.pulseLow) : Nat) := by
  unfold controlRule
  have : (0:Int) ≤ ((c.fHf / (c.pulseHigh + c.pulseLow) : Nat) : Int) := Int.natCast_nonneg _
  omega

end Sys2Proof.Machine
end

