-- ==== Sys2Proof/Laws/Decode.lean ====
section
/-! SUPPORT. Command words and type codes (30_encoding.md R90 to R96): the fields of a command word, and that a type code
names one type in a configuration the model accepts. -/

namespace Sys2Proof

/-- The fields of an encoded command word are what was put in. -/
theorem fields_commandWord (op : BitVec 4) (d : Byte) :
    opOf (commandWord op d) = op ∧ argOf (commandWord op d) = 0#4 ∧ dataOf (commandWord op d) = d := by
  refine ⟨?_, ?_, ?_⟩ <;> simp only [opOf, argOf, dataOf, commandWord] <;> apply BitVec.eq_of_getLsbD_eq <;>
    intro i hi <;> simp [hi]
  all_goals grind

/-- A word is its three fields. -/
theorem commandWord_fields {w : BitVec 16} {op : BitVec 4} {d : Byte} (h1 : opOf w = op) (h2 : argOf w = 0#4)
    (h3 : dataOf w = d) : commandWord op d = w := by
  subst h1 h3
  apply BitVec.eq_of_getLsbD_eq
  intro i hi
  have ha : ∀ j, j < 4 → w.getLsbD (8 + j) = false := by
    intro j hj
    have := congrArg (·.getLsbD j) h2
    simpa [argOf, hj] using this
  unfold commandWord
  refine (BitVec.getLsbD_append ..).trans ?_
  by_cases h : i < 8
  · simp [h, dataOf]
  · rw [if_neg h]
    refine (BitVec.getLsbD_append ..).trans ?_
    by_cases h' : i - 8 < 4
    · rw [if_pos h']
      have := ha (i - 8) h'
      rw [show 8 + (i - 8) = i by omega] at this
      simp [this]
    · rw [if_neg h']
      simp only [opOf]
      rw [BitVec.getLsbD_extractLsb', show 12 + (i - 8 - 4) = i by omega]
      simp; omega

/-- A word is its operation and the rest. -/
theorem op_append_rest {w : BitVec 16} {op : BitVec 4} (h1 : opOf w = op) :
    (op ++ w.extractLsb' 0 12 : BitVec 16) = w := by
  subst h1
  apply BitVec.eq_of_getLsbD_eq
  intro i hi
  refine (BitVec.getLsbD_append ..).trans ?_
  by_cases h : i < 12
  · simp [h]
  · rw [if_neg h]
    simp only [opOf]
    rw [BitVec.getLsbD_extractLsb', show 12 + (i - 12) = i by omega]
    simp; omega

/-- In a list without repeats an element is the first of its kind. -/
theorem find?_code {α : Type} [DecidableEq α] (l : List α) (f : α → Byte) (h : (l.map f).Nodup) {t : α} (hm : t ∈ l) :
    l.find? (fun u => f u == f t) = some t := by
  rw [List.find?_eq_some_iff_append]
  refine ⟨by simp, ?_⟩
  obtain ⟨as, bs, hab⟩ := List.append_of_mem hm
  refine ⟨as, bs, hab, fun a ha => ?_⟩
  simp only [Bool.not_eq_true', beq_eq_false_iff_ne]
  rw [hab, List.map_append, List.map_cons, List.nodup_append] at h
  exact h.2.2 _ (List.mem_map_of_mem ha) _ (by simp)

theorem requestType_code {c : Config} (h : c.wf = true) (t : ReqType) : requestType c (c.reqCode.get t) = some t := by
  simp only [Config.wf, Config.codesOk, List.all_cons, List.all_nil, id_eq, Bool.and_true, Bool.and_eq_true, decide_eq_true_eq] at h
  exact find?_code _ _ h.2.2.1.1 (by cases t <;> decide)

theorem responseType_code {c : Config} (h : c.wf = true) (t : RespType) :
    responseType c (c.respCode.get t) = some t := by
  simp only [Config.wf, Config.codesOk, List.all_cons, List.all_nil, id_eq, Bool.and_true, Bool.and_eq_true, decide_eq_true_eq] at h
  exact find?_code _ _ h.2.2.1.2.1 (by cases t <;> decide)

/-- The header of a response is not that of a request (R95). -/
theorem Config.hdr_ne {c : Config} (h : c.wf = true) : c.hdrResp ≠ c.hdrReq := by
  simp [Config.wf, Config.markersOk] at h; tauto

end Sys2Proof
end

