-- ==== Sys2Proof/Laws/Router.lean ====
section
/-! SUPPORT. The router (41_router_dispatch.md R170 to R172): recognising a tail, making room, appending; that no handler
reads the result of the operation before it; and runs of several operations. -/

namespace Sys2Proof.Machine

theorem Config.routerCap_bounds {c : Config} (h : c.wf = true) : 42 ≤ c.routerCap ∧ c.routerCap < 256 := by
  simp only [Config.wf, Config.numbersOk, Config.widthsOk, List.all_cons, List.all_nil, id_eq, Bool.and_true, Bool.and_eq_true, decide_eq_true_eq] at h
  have : frameMax = 42 := rfl
  omega

/-! ### The accumulator (R170) -/

theorem tailOffset_none {tail : Byte} {buf : List Byte} {n : Nat}
    (h : ∀ k, 3 ≤ k → k < n → byteAt buf k ≠ tail) : tailOffset tail buf n = none := by
  simp only [tailOffset, List.find?_eq_none, List.mem_range', beq_iff_eq]
  rintro k ⟨i, hi, rfl⟩
  exact h _ (by omega) (by omega)

theorem tailOffset_last {tail : Byte} {buf : List Byte} {n : Nat}
    (h : ∀ k, 3 ≤ k → k < n → byteAt buf k ≠ tail) (hn : 3 ≤ n) (ht : byteAt buf n = tail) :
    tailOffset tail buf (n + 1) = some n := by
  have h0 := tailOffset_none h
  have e : 3 + (n - 3) = n := by omega
  unfold tailOffset at *
  rw [show n + 1 - 3 = (n - 3) + 1 by omega, List.range'_concat, List.find?_append, h0]
  simp [e, ht]

/-- What the overflow check leaves (R170). -/
theorem makeRoom_spec {s : State} (hw : s.cfg.wf = true) (hr : RouterOk s.cfg s.rt) :
    RouterOk s.cfg (makeRoom s).rt ∧ (makeRoom s).rt.idx.toNat < s.cfg.routerCap ∧
      (makeRoom s).accumulated = (if s.rt.idx.toNat = s.cfg.routerCap then [] else s.accumulated) ∧
      { makeRoom s with rt := s.rt } =
        if s.rt.idx.toNat = s.cfg.routerCap then { s with cnt := { s.cnt with routerOvf := s.cnt.routerOvf + 1#32 } }
        else s := by
  have hb := Config.routerCap_bounds hw
  unfold makeRoom
  split
  · exact ⟨⟨by simpa using hr.buf, by simp, by simp, by simp⟩, by simp; omega, by simp [State.accumulated], rfl⟩
  · have := hr.idx
    exact ⟨hr, by omega, rfl, rfl⟩

theorem take_set_self {l : List Byte} {n : Nat} (h : n < l.length) (b : Byte) :
    (l.set n b).take (n + 1) = l.take n ++ [b] := by
  rw [List.set_eq_take_append_cons_drop, if_pos h, List.take_append]
  simp [Nat.min_eq_left h.le]

theorem byteAt_take {l : List Byte} {n k : Nat} (h : k < n) : byteAt (l.take n) k = byteAt l k := by
  simp [byteAt, List.getD_eq_getElem?_getD, h]

theorem take_succ_byteAt {l : List Byte} {n : Nat} (h : n < l.length) : l.take (n + 1) = l.take n ++ [byteAt l n] := by
  rw [List.take_add_one, List.getElem?_eq_getElem h]
  simp [byteAt, List.getD_eq_getElem?_getD, List.getElem?_eq_getElem h]

/-! ### No operation reads the result of the one before -/

theorem map_ite {α β : Type} {c d : Prop} [Decidable c] [Decidable d] (F : α → β) (hcd : c ↔ d) {a b : α} {a' b' : β}
    (h1 : a' = F a) (h2 : b' = F b) : (if c then a' else b') = F (if d then a else b) := by
  by_cases h : d
  · rw [if_pos h, if_pos (hcd.2 h), h1]
  · rw [if_neg h, if_neg (fun x => h (hcd.1 x)), h2]

theorem push_ok (v : OutVal) (f : Option (List Byte)) (s : State) : (s.ok v).push f = (s.push f).map (State.ok v) := by
  cases f with
  | none => rfl
  | some f => exact map_ite (Except.map (State.ok v)) Iff.rfl rfl (map_ite (Except.map (State.ok v)) Iff.rfl rfl rfl)
theorem pushResp_ok (v : OutVal) (f : List Byte) (s : State) : (s.ok v).pushResp f = (s.pushResp f).ok v := by
  unfold State.pushResp; rw [push_ok]; cases s.push (some f) <;> rfl
theorem respondAck_ok (v : OutVal) (t : RespType) (a b : Byte) (s : State) :
    respondAck t a b (s.ok v) = (respondAck t a b s).ok v := by
  simp only [respondAck]; exact pushResp_ok ..
theorem beginNext_ok (v : OutVal) (b : Bool) (s : State) : beginNext b (s.ok v) = (beginNext b s).ok v := rfl
theorem startMove_ok (v : OutVal) (s : State) : startMove (s.ok v) = (startMove s).ok v :=
  map_ite (State.ok v) Iff.rfl rfl (map_ite (State.ok v) Iff.rfl rfl rfl)
theorem moveEnd_ok (v : OutVal) (a b : Byte) (s : State) : moveEnd a b (s.ok v) = (moveEnd a b s).ok v := by
  unfold moveEnd pushMoveEnd; dsimp only
  have h1 : (stopAllAxes ((s.ok v).setFsm .stopping)).clearQueue =
    ((stopAllAxes (s.setFsm .stopping)).clearQueue).ok v := rfl
  rw [h1, State.ok_cfg, pushResp_ok]; rfl
theorem enqueue_ok (v : OutVal) (g : MoveSegment) (s : State) : (s.ok v).enqueue g = (s.enqueue g).map (State.ok v) :=
  map_ite (Except.map (State.ok v)) Iff.rfl rfl rfl
theorem setFriction_ok (v : OutVal) (e : Byte) (s : State) : setFriction e (s.ok v) = (setFriction e s).ok v :=
  map_ite (State.ok v) Iff.rfl (map_ite (State.ok v) Iff.rfl rfl rfl) rfl
theorem setOrigins_ok (v : OutVal) (m : Byte) (b : PerAxis U64) (s : State) :
    setOrigins m b (s.ok v) = (setOrigins m b s).ok v := by
  have h1 : ∀ (i : Axis) (x : State),
      (if maskBit m i then
        (x.ok v).setEnc i { (x.ok v).enc.get i with origin := ((x.ok v).enc.get i).cum, base := b.get i } else x.ok v) =
      (if maskBit m i then x.setEnc i { x.enc.get i with origin := (x.enc.get i).cum, base := b.get i } else x).ok v :=
    fun i x => map_ite (State.ok v) Iff.rfl rfl rfl
  simp only [setOrigins, State.forAxes, h1]
theorem addSegment_ok (v : OutVal) (g : MoveSegment) (s : State) : addSegment g (s.ok v) = (addSegment g s).ok v := by
  unfold addSegment; simp only [State.ok_ctl, State.ok_cfg, enqueue_ok]; split
  · exact respondAck_ok ..
  · cases s.enqueue g <;> exact respondAck_ok ..
theorem withDecoded_ok (v : OutVal) (t : ReqType) (f : List Byte) (k : Record → State → State)
    (hk : ∀ r s, k r (s.ok v) = (k r s).ok v) (s : State) : withDecoded t f k (s.ok v) = (withDecoded t f k s).ok v := by
  unfold withDecoded; simp only [State.ok_cfg]; split
  · exact hk ..
  · rfl
theorem handle_ok (v : OutVal) (t : ReqType) (f : List Byte) (s : State) : handle t f (s.ok v) = (handle t f s).ok v := by
  cases t
  case moveQueueAdd =>
    exact withDecoded_ok v .moveQueueAdd f (fun r => addSegment (segmentOf r)) (fun r s => addSegment_ok ..) s
  case moveQueueStatus =>
    refine withDecoded_ok v .moveQueueStatus f
      (fun r s => s.pushResp (encodeResp s.cfg .status (s.snapshot r.fid))) (fun r s => ?_) s
    rw [pushResp_ok]; simp only [State.ok_cfg, State.snapshot, State.ok_fsm, State.depth, State.ok_q, State.ok_ax]
  case startMove =>
    refine withDecoded_ok v .startMove f
      (fun r s => respondAck .ackStartMove r.fid (startStatus s) (startMove s)) (fun r s => ?_) s
    rw [startMove_ok, respondAck_ok]; rfl
  case moveEnd =>
    refine withDecoded_ok v .moveEnd f (fun r s => moveEnd r.fid s.cfg.stStopped s) (fun r s => ?_) s
    rw [moveEnd_ok, State.ok_cfg]
  case setOrigin =>
    refine withDecoded_ok v .setOrigin f
      (fun r s => respondAck .ackSetOrigin r.fid s.cfg.stOk (setOrigins (axisMaskOf r) (.of (baseOf r)) s))
      (fun r s => ?_) s
    rw [setOrigins_ok, respondAck_ok, State.ok_cfg]
  case encoderStatus =>
    refine withDecoded_ok v .encoderStatus f
      (fun r s => s.pushResp (encodeResp s.cfg .encStatus (recordOfEncStatus r.fid (.of fun i => (s.enc.get i).abs))))
      (fun r s => ?_) s
    rw [pushResp_ok]; simp only [State.ok_cfg, State.ok_enc]
  case ledControl => exact withDecoded_ok v _ f (fun _ s => s.emit (.extService .ledControl f)) (fun _ _ => rfl) s
  case home => exact withDecoded_ok v _ f (fun _ s => s.emit (.extService .home f)) (fun _ _ => rfl) s
  case probeLevel => exact withDecoded_ok v _ f (fun _ s => s.emit (.extService .probeLevel f)) (fun _ _ => rfl) s
  case microsteps =>
    refine withDecoded_ok v .microsteps f (fun r => setMicrosteps r.fid (r.bits 16 .microsteps)) (fun r s => ?_) s
    simp only [setMicrosteps]; split
    · exact respondAck_ok v _ _ _ (s.setCtl _)
    · exact respondAck_ok ..
  case autoFriction =>
    refine withDecoded_ok v .autoFriction f
      (fun r s => respondAck .ackAutoFriction r.fid s.cfg.stOk (setFriction (r.bits 8 .enable) s)) (fun r s => ?_) s
    rw [setFriction_ok, respondAck_ok, State.ok_cfg]
theorem dispatch_ok (v : OutVal) (f : List Byte) (s : State) : dispatch f (s.ok v) = (dispatch f s).ok v := by
  unfold dispatch; simp only [State.ok_cfg]; split
  · exact handle_ok ..
  · rfl
theorem recognise_ok (v : OutVal) (s : State) : recognise (s.ok v) = (recognise s).ok v := by
  refine map_ite (State.ok v) Iff.rfl rfl ?_
  simp only [State.ok_rt, State.ok_cfg]; split
  · exact dispatch_ok v _ (dropAccumulation s)
  · rfl
theorem routeByte_ok (v : OutVal) (b : Byte) (s : State) : routeByte b (s.ok v) = (routeByte b s).ok v := by
  have h1 : makeRoom (s.ok v) = (makeRoom s).ok v := map_ite (State.ok v) Iff.rfl rfl rfl
  unfold routeByte; rw [h1]; exact recognise_ok v (appendByte b (makeRoom s))
theorem routeBytes_ok (v : OutVal) (bs : List Byte) (s : State) : routeBytes bs (s.ok v) = (routeBytes bs s).ok v := by
  induction bs generalizing s with
  | nil => rfl
  | cons b bs ih => simp only [routeBytes, List.foldl_cons] at *; rw [routeByte_ok, ih]

/-! ### Runs -/

theorem execAll_append (a b : List Instr) (s : State) :
    execAll (a ++ b) s = (execAll a s).bind fun p => (execAll b p.1).map fun q => (q.1, p.2 ++ q.2) := by
  induction a generalizing s with
  | nil => simp [execAll]
  | cons i a ih =>
    simp only [List.cons_append, execAll]
    cases h : exec i s with
    | next t =>
      simp only [ih]
      cases h2 : execAll a t
      · rfl
      · simp only [Option.bind_some, Option.map_some]; cases execAll b _ <;> rfl
    | fault _ => rfl
    | refused _ => rfl

/-- Bytes given one by one are the bytes given at once (R171). -/
theorem execAll_rxBytes {bs : List Byte} (h : bs ≠ []) (s : State) :
    execAll (bs.map .rxByte) s = some ((routeBytes bs s).ok .unit, List.replicate bs.length (.ok .unit)) := by
  induction bs generalizing s with
  | nil => exact absurd rfl h
  | cons b bs ih =>
    simp only [List.map_cons, execAll, exec, execRxByte]
    cases bs with
    | nil => simp [execAll, routeBytes]
    | cons c cs =>
      rw [ih (by simp), routeBytes_ok]
      simp only [Option.map_some, routeBytes, List.foldl_cons, State.ok_result, List.length_cons, List.replicate_succ]
      congr 2

end Sys2Proof.Machine
end

