-- ==== Sys2Proof/Laws/Invariant.lean ====
section
/-! SUPPORT. One induction for every invariant: a predicate that each shared operation keeps is kept by every handler, by
the router, by every instruction and by a step. -/

namespace Sys2Proof.Machine

/-- A predicate each shared operation keeps. -/
structure Closed (P : State → Prop) : Prop where
  ok : ∀ v s, P s → P (s.ok v)
  raise : ∀ k s, P s → P (s.raise k)
  counters : ∀ c s, P s → P (s.setCnt c)
  router : ∀ r s, P s → P (s.setRt r)
  emit : ∀ t f s, P s → P (s.emit (.extService t f))
  respond : ∀ t r s, P s → P (s.pushResp (encodeResp s.cfg t r))
  push : ∀ f s t, P s → s.push (some f) = .ok t → P t
  pop : ∀ n s p, P s → s.pop n = .ok p → P p.state
  load : ∀ s t, P s → execLoadPending s = .next t → P t
  prime : ∀ b s t, P s → execPrime b s = .next t → P t
  enqueue : ∀ g s t, P s → s.enqueue g = .ok t → P t
  start : ∀ s, P s → P (startMove s)
  stop : ∀ a b s, P s → P (moveEnd a b s)
  origins : ∀ m b s, P s → P (setOrigins m b s)
  microsteps : ∀ m s, P s → microstepsOk m = true → P (s.setCtl { s.ctl with microsteps := m })
  friction : ∀ e s, P s → P (setFriction e s)
  safe : ∀ b s, P s → P (setSafe b s)
  hf : ∀ s, P s → P (tickHf s)
  lf : ∀ r s, P s → P (tickLf r s)
  reset : ∀ s, P s → P (resetState s)
  advance : ∀ s, P s → P s.advance

/-! ### What the FIFO's and the SPI operations write -/

/-- A pop changes the FIFO alone (R203). -/
theorem pop_state {n : Nat} {s : State} {p : Popped} (h : s.pop n = .ok p) :
    (s.rf.count = 0#8 ∧ p.state = s) ∨ (s.rf.count ≠ 0#8 ∧ p.state = s.setRf (poppedFifo s.cfg s.rf)) := by
  unfold State.pop at h
  split at h
  · cases h; exact .inl ⟨‹_›, rfl⟩
  · dsimp only at h
    split at h <;> cases h
    exact .inr ⟨‹_›, rfl⟩

theorem load_eq {s t : State} (h : execLoadPending s = .next t) :
    t = { s with rf := t.rf, spi := t.spi, result := t.result } := by
  unfold execLoadPending at h
  split at h
  · split at h <;> cases h
    · rcases pop_state ‹_› with ⟨-, e⟩ | ⟨-, e⟩ <;> rw [e] <;> rfl
    · rfl
  · cases h; rfl

theorem prime_eq {b : Byte} {s t : State} (h : execPrime b s = .next t) :
    t = { s with spi := t.spi, result := t.result } := by
  cases h; rfl

/-! ### The induction -/

variable {P : State → Prop}

theorem Closed.withDecoded (h : Closed P) {t f} {k : Record → State → State} {s : State} (hs : P s)
    (hk : ∀ r, P (k r s)) : P (withDecoded t f k s) := by
  unfold Machine.withDecoded
  split
  · exact hk _
  · exact h.counters _ _ hs

theorem Closed.ack (h : Closed P) (t a b) {s : State} (hs : P s) : P (respondAck t a b s) := h.respond _ _ _ hs

/-- Every handler keeps it (R175 to R191). -/
theorem Closed.handle (h : Closed P) (t f) {s : State} (hs : P s) : P (handle t f s) := by
  cases t <;>
    simp only [Machine.handle, handleMoveQueueAdd, handleMoveQueueStatus, handleStartMove, handleMoveEnd, handleSetOrigin,
      handleEncoderStatus, handleLedControl, handleHome, handleProbeLevel, handleMicrosteps, handleAutoFriction,
      forward] <;>
    refine h.withDecoded hs fun r => ?_
  · unfold addSegment
    split
    · exact h.ack _ _ _ hs
    · split
      · exact h.ack _ _ _ (h.enqueue _ _ _ hs ‹_›)
      · exact h.ack _ _ _ hs
  · exact h.respond _ _ _ hs
  · exact h.ack _ _ _ (h.start _ hs)
  · exact h.stop _ _ _ hs
  · exact h.ack _ _ _ (h.origins _ _ _ hs)
  · exact h.respond _ _ _ hs
  · exact h.emit _ _ _ hs
  · exact h.emit _ _ _ hs
  · exact h.emit _ _ _ hs
  · unfold setMicrosteps
    split
    · exact h.ack _ _ _ (h.microsteps _ _ hs ‹_›)
    · exact h.ack _ _ _ hs
  · exact h.ack _ _ _ (h.friction _ _ hs)

theorem Closed.dispatch (h : Closed P) (f) {s : State} (hs : P s) : P (dispatch f s) := by
  unfold Machine.dispatch
  split
  · exact h.handle _ _ hs
  · exact h.counters _ _ hs

/-- The byte rule keeps it (R170). -/
theorem Closed.routeByte (h : Closed P) (b) {s : State} (hs : P s) : P (routeByte b s) := by
  have h1 : P (makeRoom s) := by
    unfold makeRoom
    split
    · exact h.counters _ _ (h.router _ _ hs)
    · exact hs
  have h2 : P (appendByte b (makeRoom s)) := h.router _ _ h1
  unfold Machine.routeByte recognise
  split
  · exact h.router _ _ h2
  · split
    · exact h.dispatch _ (h.router _ _ h2)
    · exact h2

theorem Closed.routeBytes (h : Closed P) (bs) {s : State} (hs : P s) : P (routeBytes bs s) := by
  induction bs generalizing s with
  | nil => exact hs
  | cons b bs ih => exact ih (h.routeByte b hs)

/-- Every instruction keeps it. -/
theorem Closed.exec (h : Closed P) {i : Instr} {s t : State} (hs : P s) (he : exec i s = .next t) : P t := by
  cases i <;> simp only [Machine.exec] at he
  case nop => cases he; exact h.ok _ _ hs
  case rxByte b => cases he; exact h.ok _ _ (h.routeByte b hs)
  case rxTransfer buf =>
    cases he
    refine h.ok _ _ ?_
    unfold transfer
    split
    · exact h.counters _ _ hs
    · exact h.routeBytes _ hs
  case tickHf => cases he; exact h.ok _ _ (h.hf _ hs)
  case tickLf r => cases he; exact h.ok _ _ (h.lf r _ hs)
  case estop => cases he; exact h.ok _ _ (h.stop _ _ _ hs)
  case fifoPop c =>
    unfold execFifoPop at he
    split at he <;> cases he
    · exact h.ok _ _ (h.pop _ _ _ hs ‹_›)
    · exact h.raise _ _ hs
  case loadPending => exact h.load _ _ hs he
  case prime b => exact h.prime _ _ _ hs he
  case statusSelect n => cases he; exact h.ok _ _ hs
  case fifoPushExt f =>
    unfold execFifoPushExt at he
    split at he <;> cases he
    · exact h.ok _ _ (h.push _ _ _ hs ‹_›)
    · exact h.raise _ _ hs
  case setSafe0 => cases he; exact h.ok _ _ (h.safe _ _ hs)
  case setSafe1 => cases he; exact h.ok _ _ (h.safe _ _ hs)
  case fifoCount => cases he; exact h.ok _ _ hs
  case reset => cases he; exact h.ok _ _ (h.reset _ hs)
  case reservedD r => cases he
  case reservedE r => cases he
  case reqMoveQueueAdd f => cases he; exact h.ok _ _ (h.handle .moveQueueAdd f hs)
  case reqMoveQueueStatus f => cases he; exact h.ok _ _ (h.handle .moveQueueStatus f hs)
  case reqStartMove f => cases he; exact h.ok _ _ (h.handle .startMove f hs)
  case reqMoveEnd f => cases he; exact h.ok _ _ (h.handle .moveEnd f hs)
  case reqSetOrigin f => cases he; exact h.ok _ _ (h.handle .setOrigin f hs)
  case reqEncoderStatus f => cases he; exact h.ok _ _ (h.handle .encoderStatus f hs)
  case reqLedControl f => cases he; exact h.ok _ _ (h.handle .ledControl f hs)
  case reqHome f => cases he; exact h.ok _ _ (h.handle .home f hs)
  case reqProbeLevel f => cases he; exact h.ok _ _ (h.handle .probeLevel f hs)
  case reqMicrosteps f => cases he; exact h.ok _ _ (h.handle .microsteps f hs)
  case reqAutoFriction f => cases he; exact h.ok _ _ (h.handle .autoFriction f hs)
  all_goals
    cases he
    unfold sendResponse
    split
    · exact h.ok _ _ (h.respond _ _ _ hs)
    · exact h.ok _ _ (h.counters _ _ hs)

/-- What a step that answers a next state did: the configuration is accepted, the state was sound, and the decoded
instruction ran. -/
theorem step_next {s t : State} (h : step s = .next t) :
    s.cfg.wf = true ∧ s.Sound ∧ ∃ i, decode s.cfg s.nextItem = .ok i ∧ exec i s.advance = .next t := by
  rcases step_cases s with ⟨hw, hs, e⟩ | ⟨-, e⟩ | ⟨-, -, e⟩ | ⟨-, -, -, e | e⟩ <;> rw [e] at h
  · split at h
    · cases h
    · exact ⟨hw, hs, _, ‹_›, h⟩
  all_goals cases h

/-- A step keeps it. -/
theorem Closed.step (h : Closed P) {s t : State} (hs : P s) (he : step s = .next t) : P t := by
  obtain ⟨-, -, i, -, hx⟩ := step_next he
  exact h.exec (h.advance _ hs) hx

end Sys2Proof.Machine
end

