-- ==== Sys2Proof/Laws/PerInstr.lean ====
section
/-! SUPPORT. The per-instruction family `PortShape`: what a well-formed instruction looks like on the port, one lemma per
constructor (30_encoding.md R90 to R92, R95, R96). -/

namespace Sys2Proof.Laws.PortShape

open Sys2Proof Sys2Proof.Machine

/-- A command word with the bits R92 fixes, and the buses of their lengths (R90); or a message of its row's header, type
and length. -/
def Shaped (c : Config) (i : Instr) : PortItem → Prop
  | .command p =>
    (argOf p.word = 0#4 ∨ opOf p.word = 0xD#4 ∨ opOf p.word = 0xE#4) ∧
      (opOf p.word = 0x2#4 → p.rxbuf.length = c.xferLen) ∧ (opOf p.word = 0xA#4 → p.frame.length ≤ 255)
  | .message f =>
    (∃ t, i = .ofRequest t f ∧ f[0]? = some c.hdrReq ∧ f[1]? = some (c.reqCode.get t) ∧ frameMin ≤ f.length ∧
        f.length ≤ c.routerCap) ∨
      ∃ t, i = .ofResponse t f ∧ f[0]? = some c.hdrResp ∧ f[1]? = some (c.respCode.get t) ∧ frameMin ≤ f.length ∧
        f.length ≤ frameMax

/-- The statement of the family. -/
def Statement (i : Instr) : Prop := ∀ c : Config, i.wf c = true → Shaped c i (encode i)

theorem opOf_append (op : BitVec 4) (rest : BitVec 12) : opOf (op ++ rest) = op := by
  unfold opOf; apply BitVec.eq_of_getLsbD_eq; intro i hi
  rw [BitVec.getLsbD_extractLsb', BitVec.getLsbD_append]
  simp [hi]

/-- A command word of an operation with no bus. -/
theorem shaped_plain (c : Config) (i : Instr) (op : BitVec 4) (d : Byte) (h2 : op ≠ 0x2#4) (hA : op ≠ 0xA#4) :
    Shaped c i (plainCommand op d) := by
  have h := fields_commandWord op d
  exact ⟨.inl h.2.1, fun e => absurd (h.1.symm.trans e) h2, fun e => absurd (h.1.symm.trans e) hA⟩

theorem shaped_request (c : Config) (t : ReqType) (f : List Byte) (h : wfRequest c t f = true) :
    Shaped c (.ofRequest t f) (.message f) := by
  simp only [wfRequest, Bool.and_eq_true, decide_eq_true_eq, beq_iff_eq] at h
  exact .inl ⟨t, rfl, h.1.2, h.2, h.1.1.1, h.1.1.2⟩

theorem shaped_response (c : Config) (t : RespType) (f : List Byte) (h : wfResponse c t f = true) :
    Shaped c (.ofResponse t f) (.message f) := by
  simp only [wfResponse, Bool.and_eq_true, decide_eq_true_eq, beq_iff_eq] at h
  exact .inr ⟨t, rfl, h.1.2, h.2, h.1.1.1, h.1.1.2⟩

theorem nop : Statement .nop := fun c _ => shaped_plain c _ _ _ (by decide) (by decide)
theorem rxByte (b : Byte) : Statement (.rxByte b) := fun c _ => shaped_plain c _ _ _ (by decide) (by decide)
theorem rxTransfer (buf : List Byte) : Statement (.rxTransfer buf) := fun c h => by
  have e := fields_commandWord 0x2#4 0#8
  exact ⟨.inl e.2.1, fun _ => by simpa [Instr.wf] using h, fun x => absurd (e.1.symm.trans x) (by decide)⟩
theorem tickHf : Statement .tickHf := fun c _ => shaped_plain c _ _ _ (by decide) (by decide)
theorem tickLf (raw : PerAxis U32) : Statement (.tickLf raw) := fun c _ => by
  have e := fields_commandWord 0x4#4 0#8
  exact ⟨.inl e.2.1, fun x => absurd (e.1.symm.trans x) (by decide), fun x => absurd (e.1.symm.trans x) (by decide)⟩
theorem estop : Statement .estop := fun c _ => shaped_plain c _ _ _ (by decide) (by decide)
theorem fifoPop (n : Byte) : Statement (.fifoPop n) := fun c _ => shaped_plain c _ _ _ (by decide) (by decide)
theorem loadPending : Statement .loadPending := fun c _ => shaped_plain c _ _ _ (by decide) (by decide)
theorem prime (status : Byte) : Statement (.prime status) := fun c _ => shaped_plain c _ _ _ (by decide) (by decide)
theorem statusSelect (n : Byte) : Statement (.statusSelect n) := fun c _ => shaped_plain c _ _ _ (by decide) (by decide)
theorem fifoPushExt (frame : List Byte) : Statement (.fifoPushExt frame) := fun c h => by
  have e := fields_commandWord 0xA#4 0#8
  exact ⟨.inl e.2.1, fun x => absurd (e.1.symm.trans x) (by decide), fun _ => by simpa [Instr.wf] using h⟩
theorem setSafe0 : Statement .setSafe0 := fun c _ => shaped_plain c _ _ _ (by decide) (by decide)
theorem setSafe1 : Statement .setSafe1 := fun c _ => shaped_plain c _ _ _ (by decide) (by decide)
theorem fifoCount : Statement .fifoCount := fun c _ => shaped_plain c _ _ _ (by decide) (by decide)
theorem reset : Statement .reset := fun c _ => shaped_plain c _ _ _ (by decide) (by decide)
theorem reservedD (rest : BitVec 12) : Statement (.reservedD rest) := fun c _ => by
  have h : opOf (0xD#4 ++ rest) = 0xD#4 := opOf_append _ rest
  exact ⟨.inr (.inl h), fun x => absurd (h.symm.trans x) (by decide), fun x => absurd (h.symm.trans x) (by decide)⟩
theorem reservedE (rest : BitVec 12) : Statement (.reservedE rest) := fun c _ => by
  have h : opOf (0xE#4 ++ rest) = 0xE#4 := opOf_append _ rest
  exact ⟨.inr (.inr h), fun x => absurd (h.symm.trans x) (by decide), fun x => absurd (h.symm.trans x) (by decide)⟩
theorem reqMoveQueueAdd (frame : List Byte) : Statement (.reqMoveQueueAdd frame) := fun c h => shaped_request c .moveQueueAdd frame h
theorem reqMoveQueueStatus (frame : List Byte) : Statement (.reqMoveQueueStatus frame) := fun c h => shaped_request c .moveQueueStatus frame h
theorem reqStartMove (frame : List Byte) : Statement (.reqStartMove frame) := fun c h => shaped_request c .startMove frame h
theorem reqMoveEnd (frame : List Byte) : Statement (.reqMoveEnd frame) := fun c h => shaped_request c .moveEnd frame h
theorem reqSetOrigin (frame : List Byte) : Statement (.reqSetOrigin frame) := fun c h => shaped_request c .setOrigin frame h
theorem reqEncoderStatus (frame : List Byte) : Statement (.reqEncoderStatus frame) := fun c h => shaped_request c .encoderStatus frame h
theorem reqLedControl (frame : List Byte) : Statement (.reqLedControl frame) := fun c h => shaped_request c .ledControl frame h
theorem reqHome (frame : List Byte) : Statement (.reqHome frame) := fun c h => shaped_request c .home frame h
theorem reqProbeLevel (frame : List Byte) : Statement (.reqProbeLevel frame) := fun c h => shaped_request c .probeLevel frame h
theorem reqMicrosteps (frame : List Byte) : Statement (.reqMicrosteps frame) := fun c h => shaped_request c .microsteps frame h
theorem reqAutoFriction (frame : List Byte) : Statement (.reqAutoFriction frame) := fun c h => shaped_request c .autoFriction frame h
theorem respAckMoveQueueAdd (frame : List Byte) : Statement (.respAckMoveQueueAdd frame) := fun c h => shaped_response c .ackMoveQueueAdd frame h
theorem respAckStartMove (frame : List Byte) : Statement (.respAckStartMove frame) := fun c h => shaped_response c .ackStartMove frame h
theorem respAckSetOrigin (frame : List Byte) : Statement (.respAckSetOrigin frame) := fun c h => shaped_response c .ackSetOrigin frame h
theorem respAckMicrosteps (frame : List Byte) : Statement (.respAckMicrosteps frame) := fun c h => shaped_response c .ackMicrosteps frame h
theorem respAckAutoFriction (frame : List Byte) : Statement (.respAckAutoFriction frame) := fun c h => shaped_response c .ackAutoFriction frame h
theorem respStatus (frame : List Byte) : Statement (.respStatus frame) := fun c h => shaped_response c .status frame h
theorem respMoveEnd (frame : List Byte) : Statement (.respMoveEnd frame) := fun c h => shaped_response c .moveEnd frame h
theorem respEncStatus (frame : List Byte) : Statement (.respEncStatus frame) := fun c h => shaped_response c .encStatus frame h

end Sys2Proof.Laws.PortShape
end

