-- ==== Sys2Proof/Laws/Pulse.lean ====
section
/-! SUPPORT. TICK_HF in the terms of claims (44_dda_pulse.md R260 to R267): the holds, the accumulation, the completion
check, and the begin and the stop it runs. -/

namespace Sys2Proof.Machine

theorem AxisState.eq_of_fields {a b : AxisState} (h1 : a.total = b.total) (h2 : a.emitted = b.emitted)
    (h3 : a.targetSteps = b.targetSteps) (h4 : a.vCmd = b.vCmd)
  (h5 : a.kp = b.kp) (h6 : a.ki = b.ki) (h7 : a.kd = b.kd) (h8 : a.highHold = b.highHold)
      (h9 : a.lowHold = b.lowHold) (h10 : a.enSettle = b.enSettle) (h11 : a.dirSettle = b.dirSettle)
  (h12 : a.phase = b.phase) (h13 : a.incr = b.incr) (h14 : a.vTarget = b.vTarget) (h15 : a.vActual = b.vActual)
      (h16 : a.accFrac = b.accFrac) (h17 : a.braking = b.braking)
  (h18 : a.integ = b.integ) (h19 : a.ePrev = b.ePrev) (h20 : a.dFilt = b.dFilt) (h21 : a.err = b.err)
      (h22 : a.encSegStart = b.encSegStart) : a = b := by
  cases a; cases b; simp_all

/-- Phase 1 on one axis (R261). -/
theorem closeHolds_spec {c : Config} (hw : c.wf = true) (a : AxisState) (p : Pin) :
    HoldsClosed c a (closeHolds c a) p (closedPin a p) := by
  have hp := Config.pulse_bounds hw
  have hlow : c.pulseLow < 2 ^ 32 := by
    simp only [Config.wf, Config.widthsOk, List.all_cons, List.all_nil, id_eq, Bool.and_true, Bool.and_eq_true, decide_eq_true_eq] at hw; omega
  have cd : ∀ h : U32, (countDown h).toNat = h.toNat - 1 := by
    intro h; unfold countDown; split
    · subst_vars; rfl
    · rename_i h'; have : h.toNat ≠ 0 := fun e => h' (BitVec.eq_of_toNat_eq (by simpa using e))
      rw [BitVec.toNat_sub]; simp; omega
  by_cases h0 : a.highHold = 0#32
  · have h1 : pulseEnds a = false := by simp [pulseEnds, h0]
    have e : closeHolds c a =
        { a with
          lowHold := countDown a.lowHold, enSettle := countDown a.enSettle, dirSettle := countDown a.dirSettle } := by
      simp [closeHolds, h0]
    rw [e]
    constructor <;> simp [h0, cd, closedPin, h1]
    simp [← h0]
  · by_cases h1 : a.highHold = 1#32
    · have h1' : pulseEnds a = true := by simp [pulseEnds, h1]
      have e : closeHolds c a =
          { a with
            highHold := 0#32, lowHold := BitVec.ofNat 32 c.pulseLow, enSettle := countDown a.enSettle,
            dirSettle := countDown a.dirSettle } := by
        simp [closeHolds, h0, h1']
      rw [e]
      constructor <;> simp [h1, cd, closedPin, h1']
      · omega
      · simp [← h1]
    · have h1' : pulseEnds a = false := by simp [pulseEnds, h1]
      have e : closeHolds c a =
          { a with
            highHold := a.highHold - 1#32, enSettle := countDown a.enSettle,
            dirSettle := countDown a.dirSettle } := by
        simp [closeHolds, h0, h1']
      have n0 : a.highHold.toNat ≠ 0 := fun e => h0 (BitVec.eq_of_toNat_eq (by simpa using e))
      have n1 : a.highHold.toNat ≠ 1 := fun e => h1 (BitVec.eq_of_toNat_eq (by simpa using e))
      rw [e]
      constructor <;> simp [cd, closedPin, h1', n0, n1]
      omega

theorem pulseEnds_iff (a : AxisState) : pulseEnds a = true ↔ a.highHold.toNat = 1 := by
  simp only [pulseEnds, beq_iff_eq]
  exact ⟨fun h => by rw [h]; rfl, fun h => BitVec.eq_of_toNat_eq (by simpa using h)⟩

theorem closed_fall (s : State) : (s.forAxes closePulse).trace = s.trace ++ fallEvents s.ax := by
  rw [closed_trace]
  have : ∀ (i : Axis) (a : AxisState), closeEvents i a = if a.highHold.toNat = 1 then [.stepLow i] else [] := by
    intro i a; simp only [closeEvents, pulseEnds_iff]
  simp only [this, fallEvents, Axis.all, List.flatMap_cons, List.flatMap_nil, PerAxis.get,
    List.append_nil, List.append_assoc]
  rfl

theorem closed_frame (s : State) : { s.forAxes closePulse with ax := s.ax, pin := s.pin, trace := s.trace } = s := by
  apply State.eq_of_fields <;> simp [State.forAxes]

theorem eligible_iff (a : AxisState) : eligible a = true ↔ Unblocked a := by
  have z : ∀ x : U32, x = 0#32 ↔ x.toNat = 0 :=
    fun x => ⟨fun h => by rw [h]; rfl, fun h => BitVec.eq_of_toNat_eq (by simpa using h)⟩
  simp only [eligible, Unblocked, Bool.and_eq_true, bne_iff_ne, ne_eq, beq_iff_eq, decide_eq_true_eq, z, BitVec.lt_def]
  omega

theorem takesStep_iff (a : AxisState) : takesStep a = true ↔ Steps a := by
  simp [takesStep, Steps, eligible_iff, stepsNow, phaseSum]

/-- Phase 2 on one axis (R262, R263). -/
theorem movedAxis_spec {c : Config} (hw : c.wf = true) {a : AxisState} (ha : AxisOk c a) (p : Pin) :
    PhaseAdvanced c a (movedAxis c a) p (movedPin a p) := by
  have hp := Config.pulse_bounds hw
  have hhi : c.pulseHigh < 2 ^ 32 := by
    simp only [Config.wf, Config.widthsOk, List.all_cons, List.all_nil, id_eq, Bool.and_true, Bool.and_eq_true, decide_eq_true_eq] at hw; omega
  have h1 := ha.phase
  have h2 := ha.incr
  have h0 : one = 65536 := rfl
  refine ⟨fun h => ?_, fun h hn => ?_, fun h => ?_⟩
  · have ht := (takesStep_iff a).2 h
    have he := (eligible_iff a).2 h.1
    have hs : stepsNow a = true := by simp [stepsNow, phaseSum]; exact h.2
    have hem : a.emitted.toNat < a.total.toNat := h.1.2.1
    have := a.total.isLt
    simp only [movedAxis, he, if_true, accumulated, hs, movedPin, ht]
    refine ⟨?_, ?_, ?_, by simp, by simp, by simp⟩
    · simp [phaseSum]; omega
    · simp; omega
    · rw [BitVec.toNat_add]; simp; omega
  · have he := (eligible_iff a).2 h
    have hs : stepsNow a = false := by simp [stepsNow, phaseSum]; exact hn
    have ht : takesStep a = false := by simp [takesStep, hs]
    simp only [movedAxis, he, if_true, accumulated, hs, movedPin, ht]
    refine ⟨?_, by simp, by simp⟩
    simp [phaseSum]; omega
  · have he : eligible a = false := by rw [← Bool.not_eq_true, eligible_iff]; exact h
    simp [movedAxis, he, movedPin, takesStep]

theorem moveEvents_rise (ax : PerAxis AxisState) :
    RiseEvents ax (moveEvents .x ax.x ++ moveEvents .y ax.y ++ moveEvents .z ax.z) := by
  refine ⟨_, _, _, rfl, ?_⟩
  refine ⟨?_, ?_, ?_, ?_, ?_, ?_⟩ <;> intro h <;> rw [← takesStep_iff] at h <;>
      first | exact if_pos h | exact if_neg h

theorem closeHolds_ok {c : Config} {a : AxisState} (h : AxisOk c a) : AxisOk c (closeHolds c a) := by
  have : (closeHolds c a).emitted = a.emitted ∧ (closeHolds c a).total = a.total ∧
      (closeHolds c a).targetSteps = a.targetSteps ∧ (closeHolds c a).phase = a.phase ∧
      (closeHolds c a).incr = a.incr ∧ (closeHolds c a).vTarget = a.vTarget ∧
      (closeHolds c a).vActual = a.vActual ∧ (closeHolds c a).accFrac = a.accFrac ∧
      (closeHolds c a).integ = a.integ := by
    unfold closeHolds; split <;> [split; skip] <;> simp
  obtain ⟨h1, h2, h3, h4, h5, h6, h7, h8, h9⟩ := this
  constructor <;> simp only [h1, h2, h3, h4, h5, h6, h7, h8, h9]
  exacts [h.emitted, h.target, h.phase, h.incr, h.vTarget, h.vActual, h.accFrac, h.integLo, h.integHi]

/-- The state after phases 1 and 2. -/
def afterPhases (s : State) : State := (s.forAxes closePulse).forAxes accumulate

/-- Phases 1 and 2 of an HF tick (R261 to R263). -/
theorem afterPhases_spec (s : State) (hw : s.cfg.wf = true)
    (ha : ∀ i, AxisOk s.cfg (s.ax.get i)) : HfPhases s (afterPhases s) := by
  have hc : (s.forAxes closePulse).cfg = s.cfg := by simp [State.forAxes]
  refine ⟨(s.forAxes closePulse).ax, (s.forAxes closePulse).pin, _, fun i => ?_, fun i => ?_, moveEvents_rise _,
    ?_, ?_⟩
  · rw [closed_ax, closed_pin]; exact closeHolds_spec hw _ _
  · rw [afterPhases, moved_ax, moved_pin, hc]
    exact movedAxis_spec hw (by rw [closed_ax]; exact closeHolds_ok (ha i)) _
  · rw [afterPhases, moved_trace, closed_fall]
  · apply State.eq_of_fields <;> simp [State.forAxes, afterPhases]

theorem segmentDone_iff (s : State) : segmentDone s = true ↔ ∀ i, (s.ax.get i).emitted = (s.ax.get i).total := by
  simp [segmentDone, Axis.all]
  exact ⟨fun ⟨a, b, c⟩ i => by cases i <;> assumption, fun h => ⟨h .x, h .y, h .z⟩⟩

theorem linesLow_iff (s : State) : linesLow s = true ↔ ∀ i, (s.ax.get i).highHold = 0#32 := by
  simp [linesLow, Axis.all]
  exact ⟨fun ⟨a, b, c⟩ i => by cases i <;> assumption, fun h => ⟨h .x, h .y, h .z⟩⟩

theorem HoldsClosed.unique {c a b b' p q q'} (h : HoldsClosed c a b p q)
    (h' : HoldsClosed c a b' p q') : b = b' ∧ q = q' := by
  have hb : b = b' := by
    have o := h.others
    have o' := h'.others
    have e1 : b.highHold = b'.highHold := BitVec.eq_of_toNat_eq (h.high.trans h'.high.symm)
    have e2 : b.lowHold = b'.lowHold := BitVec.eq_of_toNat_eq (h.low.trans h'.low.symm)
    have e3 : b.enSettle = b'.enSettle := BitVec.eq_of_toNat_eq (h.enSettle.trans h'.enSettle.symm)
    have e4 : b.dirSettle = b'.dirSettle := BitVec.eq_of_toNat_eq (h.dirSettle.trans h'.dirSettle.symm)
    have o2 := o.trans o'.symm
    simp only [AxisState.mk.injEq] at o2
    apply AxisState.eq_of_fields <;> simp_all only
  exact ⟨hb, h.pin.trans h'.pin.symm⟩

theorem PhaseAdvanced.unique {c a b b' p q q'} (h : PhaseAdvanced c a b p q)
    (h' : PhaseAdvanced c a b' p q') : b = b' ∧ q = q' := by
  by_cases hs : Steps a
  · obtain ⟨x1, x2, x3, x4, x5, x6⟩ := h.step hs
    obtain ⟨y1, y2, y3, y4, y5, y6⟩ := h'.step hs
    refine ⟨?_, x6.trans y6.symm⟩
    have e1 := BitVec.eq_of_toNat_eq (x1.trans y1.symm)
    have e2 := BitVec.eq_of_toNat_eq (x2.trans y2.symm)
    have e3 := BitVec.eq_of_toNat_eq (x3.trans y3.symm)
    have o2 := x5.trans y5.symm
    simp only [AxisState.mk.injEq] at o2
    have e4 := x4.trans y4.symm
    apply AxisState.eq_of_fields <;> simp_all only
  · by_cases hu : Unblocked a
    · have hl : a.phase.toNat + a.incr.toNat < one := by by_contra hc; exact hs ⟨hu, by omega⟩
      obtain ⟨x1, x2, x3⟩ := h.noStep hu hl
      obtain ⟨y1, y2, y3⟩ := h'.noStep hu hl
      refine ⟨?_, x3.trans y3.symm⟩
      have e1 := BitVec.eq_of_toNat_eq (x1.trans y1.symm)
      have o2 := x2.trans y2.symm
      simp only [AxisState.mk.injEq] at o2
      apply AxisState.eq_of_fields <;> simp_all only
    · obtain ⟨x1, x2⟩ := h.blocked hu
      obtain ⟨y1, y2⟩ := h'.blocked hu
      exact ⟨x1.trans y1.symm, x2.trans y2.symm⟩

/-- Phases 1 and 2 leave one state. -/
theorem HfPhases.unique {s u v : State} (h : HfPhases s u) (h' : HfPhases s v) : u = v := by
  obtain ⟨b, p, es, a1, a2, a3, a4, a5⟩ := h
  obtain ⟨b', p', es', b1, b2, b3, b4, b5⟩ := h'
  have hb : b = b' := PerAxis.ext_get fun i => ((a1 i).unique (b1 i)).1
  have hp : p = p' := PerAxis.ext_get fun i => ((a1 i).unique (b1 i)).2
  subst hb hp
  have hax : u.ax = v.ax := PerAxis.ext_get fun i => ((a2 i).unique (b2 i)).1
  have hpin : u.pin = v.pin := PerAxis.ext_get fun i => ((a2 i).unique (b2 i)).2
  have hes : es = es' := by
    obtain ⟨x, y, z, e, c1, c2, c3, c4, c5, c6⟩ := a3
    obtain ⟨x', y', z', e', d1, d2, d3, d4, d5, d6⟩ := b3
    subst e e'
    have : x = x' := by by_cases h : Steps b.x <;> simp_all
    have : y = y' := by by_cases h : Steps b.y <;> simp_all
    have : z = z' := by by_cases h : Steps b.z <;> simp_all
    subst_vars; rfl
  have ht : u.trace = v.trace := by rw [a4, b4, hes]
  have := a5.trans b5.symm
  simp only [State.mk.injEq] at this
  apply State.eq_of_fields <;> simp_all only

/-- The begin of the oldest segment (R221, R230). -/
theorem beginNext_begun {u : State} (hw : u.cfg.wf = true) (hq : QueueOk u.cfg u.q)
    (hc : u.q.count ≠ 0#16) (ch : Bool) :
    ∀ t : State, t.q = (beginNext ch u).q → t.seg = (beginNext ch u).seg → t.ax = (beginNext ch u).ax → t.pin =
        (beginNext ch u).pin → t.trace = (beginNext ch u).trace →
    Begun ch (queueSlot u.q u.q.head.toNat) u t := by
  intro t h1 h2 h3 h4 h5
  have hd := hq.dequeued hw hc
  refine ⟨?_, ?_, fun i => ?_, ?_⟩
  · rw [h1, beginNext_q]; exact hd.1
  · rw [h2]; simp [State.headSegment]
  · rw [h3, h4, beginNext_ax, beginNext_pin]
    have := begunAxis_spec hw (queueSlot u.q u.q.head.toNat) ch i
    exact this
  · rw [h5, beginNext_trace]
    have : ∀ g i p, beginEvents g i p = Event.setDir i (maskBit g.dirMask i) :: ((if g.steps.get i ≠ 0#32 ∧
        p.en = false then [Event.drvEnable i] else []) ++
        (if g.steps.get i = 0#32 ∧ p.en = true then [Event.drvDisable i] else [])) := by
      intro g i p; simp [beginEvents]
    simp [Axis.all, this, PerAxis.get, State.headSegment]; rfl

/-- The stop of every axis (R231). -/
theorem stopAllAxes_stopped (u t : State) (h1 : t.seg = (stopAllAxes u).seg) (h2 : t.ax = (stopAllAxes u).ax)
    (h3 : t.pin = (stopAllAxes u).pin) (h4 : t.trace = (stopAllAxes u).trace) : AxesStopped u t := by
  refine ⟨by rw [h1]; simp, fun i => by rw [h2]; simp, fun i => by rw [h3]; simp, ?_⟩
  rw [h4]; simp [stopEvents, Axis.all, PerAxis.get]; rfl

end Sys2Proof.Machine
end

