-- ==== Sys2Proof/Tests/Slice0.lean ====
section
/-! SUPPORT. Tests. Expected values come from the spec: the rule or the vector of 95_test_vectors.md each names. Then the
witnesses: concrete states and operands that meet the hypotheses of each obligation. -/

namespace Sys2Proof.Tests

open Sys2Proof Sys2Proof.Machine

-- one kernel evaluation at a time
set_option Elab.async false

/-! ## Frames of the spec (R145 to R159, 95_test_vectors.md 2.2), in TI -/

def zeros (n : Nat) : List Byte := List.replicate n 0#8
/-- dir_mask 0x01, steps (3,0,0), vel (25000,0,0), fid 0x11. -/
def addX : List Byte :=
  [0xAA#8, 0x01#8, 0x11#8, 0x01#8, 0x61#8, 0xA8#8, 0x00#8, 0x00#8, 0x00#8, 0x03#8] ++ zeros 30 ++ [0xDB#8, 0x55#8]
/-- dir_mask 0x02, steps (0,2,0), vel (0,25000,0), fid 0x12. -/
def addY : List Byte :=
  [0xAA#8, 0x01#8, 0x12#8, 0x02#8] ++ zeros 12 ++ [0x61#8, 0xA8#8, 0x00#8, 0x00#8, 0x00#8, 0x02#8] ++ zeros 18 ++
    [0xDA#8, 0x55#8]
def status21 : List Byte := [0xAA#8, 0x02#8, 0x21#8, 0x00#8, 0x55#8]
def start22 : List Byte := [0xAA#8, 0x03#8, 0x22#8, 0x21#8, 0x55#8]
def end30 : List Byte := [0xAA#8, 0x04#8, 0x30#8, 0x34#8, 0x55#8]
/-- axis_mask 0x01, base (1000, 0, 0). -/
def origin24 : List Byte :=
  [0xAA#8, 0x05#8, 0x24#8, 0x01#8, 0x00#8, 0x00#8, 0x03#8, 0xE8#8] ++ zeros 8 ++ [0xCB#8, 0x55#8]
def encoder25 : List Byte := [0xAA#8, 0x06#8, 0x25#8, 0x00#8, 0x55#8]
def led26 : List Byte := [0xAA#8, 0x07#8, 0x26#8, 0x05#8, 0x55#8]
def home27 : List Byte := [0xAA#8, 0x08#8, 0x27#8, 0x07#8, 0x28#8, 0x55#8]
def probe28 : List Byte := [0xAA#8, 0x09#8, 0x28#8, 0x55#8]
def micro0 : List Byte := [0xAA#8, 0x0A#8, 0x29#8, 0x00#8, 0x00#8, 0x23#8, 0x55#8]
def micro1 : List Byte := [0xAA#8, 0x0A#8, 0x29#8, 0x00#8, 0x01#8, 0x22#8, 0x55#8]
def micro256 : List Byte := [0xAA#8, 0x0A#8, 0x29#8, 0x01#8, 0x00#8, 0x22#8, 0x55#8]
def micro257 : List Byte := [0xAA#8, 0x0A#8, 0x29#8, 0x01#8, 0x01#8, 0x23#8, 0x55#8]
def friction2A : List Byte := [0xAA#8, 0x0B#8, 0x2A#8, 0x01#8, 0x20#8, 0x55#8]
/-- enable 0; the parity is `0x0B XOR 0x2A`. -/
def frictionOff : List Byte := [0xAA#8, 0x0B#8, 0x2A#8, 0x00#8, 0x21#8, 0x55#8]

def ackAdd11 : List Byte := [0xAB#8, 0x01#8, 0x11#8, 0x00#8, 0x01#8, 0x11#8, 0x54#8]
def ackStart22 : List Byte := [0xAB#8, 0x03#8, 0x22#8, 0x00#8, 0x00#8, 0x21#8, 0x54#8]
def ackOrigin24 : List Byte := [0xAB#8, 0x05#8, 0x24#8, 0x00#8, 0x00#8, 0x21#8, 0x54#8]
def ackMicro29 : List Byte := [0xAB#8, 0x0A#8, 0x29#8, 0x00#8, 0x00#8, 0x23#8, 0x54#8]
/-- fid 0x2A, ST_OK, depth 0; the parity is `0x0B XOR 0x2A` (R156). -/
def ackFriction2A : List Byte := [0xAB#8, 0x0B#8, 0x2A#8, 0x00#8, 0x00#8, 0x21#8, 0x54#8]
def statusIdle : List Byte :=
  [0xAB#8, 0x02#8, 0x21#8, 0x00#8, 0x00#8, 0x64#8, 0x64#8, 0x64#8, 0x00#8, 0x00#8, 0x00#8, 0x47#8, 0x54#8]
def moveEnd11 : List Byte := [0xAB#8, 0x04#8, 0x11#8, 0x00#8, 0x15#8, 0x54#8]
/-- abs (1020, 0, 0). -/
def encStatus25 : List Byte := [0xAB#8, 0x06#8, 0x25#8, 0x00#8, 0x00#8, 0x03#8, 0xFC#8] ++ zeros 8 ++ [0xDC#8, 0x54#8]

/-! ## Decoding: every row, from words written out of R91 and the table -/

theorem test_decode_commands :
    decodeTableWord 16 0x0000 = some .nop ∧ decodeTableWord 16 0x10AA = some (.rxByte 0xAA#8) ∧
      decodeTableWord 16 0x2000 = some (.rxTransfer (zeros 42)) ∧ decodeTableWord 16 0x3000 = some .tickHf ∧
      decodeTableWord 16 0x4000 = some (.tickLf (.same 0#32)) ∧ decodeTableWord 16 0x5000 = some .estop ∧
      decodeTableWord 16 0x602A = some (.fifoPop 42#8) ∧ decodeTableWord 16 0x7000 = some .loadPending ∧
      decodeTableWord 16 0x80B1 = some (.prime 0xB1#8) ∧ decodeTableWord 16 0x9004 = some (.statusSelect 4#8) ∧
      decodeTableWord 16 0xA000 = some (.fifoPushExt []) ∧ decodeTableWord 16 0xB000 = some .setSafe0 ∧
      decodeTableWord 16 0xB001 = some .setSafe1 ∧ decodeTableWord 16 0xC000 = some .fifoCount ∧
      decodeTableWord 16 0xF000 = some .reset := by decide +kernel

theorem test_decode_reserved :
    decodeTableWord 16 0xD000 = some (.reservedD 0#12) ∧ decodeTableWord 16 0xE123 = some (.reservedE 0x123#12) := by
  decide +kernel

/-- 95_test_vectors.md 2.1, last row. -/
theorem test_decode_refuses :
    decode .tc (.command (.ofWord 0x1100#16)) = .error .argNonzero ∧
      decode .tc (.command (.ofWord 0x3001#16)) = .error .dataNonzero ∧
      decode .tc (.command (.ofWord 0xB002#16)) = .error .setSafeData ∧
      decode .tc (.command (.ofWord 0x2000#16)) = .error .rxbufLength ∧
      decode .tc (.command ⟨0xA000#16, [], .same 0#32, zeros 256⟩) = .error .frameLength ∧
      decode .tc (.message [0xAA#8]) = .error .messageLength ∧
      decode .tc (.message [0xAA#8, 0x01#8, 0x02#8]) = .error .messageLength ∧
      decode .tc (.message [0xAA#8, 0x0C#8, 0x00#8, 0x55#8]) = .error .messageUnknown ∧
      decode .tc (.message [0xAB#8, 0x08#8, 0x00#8, 0x54#8]) = .error .messageUnknown := by decide +kernel

theorem test_decode_requests :
    decode .tc (.message addX) = .ok (.reqMoveQueueAdd addX) ∧
      decode .tc (.message status21) = .ok (.reqMoveQueueStatus status21) ∧
      decode .tc (.message start22) = .ok (.reqStartMove start22) ∧
      decode .tc (.message end30) = .ok (.reqMoveEnd end30) ∧
      decode .tc (.message origin24) = .ok (.reqSetOrigin origin24) ∧
      decode .tc (.message encoder25) = .ok (.reqEncoderStatus encoder25) ∧
      decode .tc (.message led26) = .ok (.reqLedControl led26) ∧
      decode .tc (.message home27) = .ok (.reqHome home27) ∧
      decode .tc (.message probe28) = .ok (.reqProbeLevel probe28) ∧
      decode .tc (.message micro1) = .ok (.reqMicrosteps micro1) ∧
      decode .tc (.message friction2A) = .ok (.reqAutoFriction friction2A) := by decide +kernel

theorem test_decode_responses :
    decode .tc (.message ackAdd11) = .ok (.respAckMoveQueueAdd ackAdd11) ∧
      decode .tc (.message ackStart22) = .ok (.respAckStartMove ackStart22) ∧
      decode .tc (.message ackOrigin24) = .ok (.respAckSetOrigin ackOrigin24) ∧
      decode .tc (.message ackMicro29) = .ok (.respAckMicrosteps ackMicro29) ∧
      decode .tc (.message ackFriction2A) = .ok (.respAckAutoFriction ackFriction2A) ∧
      decode .tc (.message statusIdle) = .ok (.respStatus statusIdle) ∧
      decode .tc (.message moveEnd11) = .ok (.respMoveEnd moveEnd11) ∧
      decode .tc (.message encStatus25) = .ok (.respEncStatus encStatus25) := by decide +kernel

/-- A table word of a message row: the bytes beyond the 16 given bits are zero, the length is the layout's. -/
theorem test_decode_table_message :
    decodeTableWord 16 0xAA09 = some (.reqProbeLevel [0xAA#8, 0x09#8, 0x00#8, 0x00#8]) ∧
      decodeTableWord 16 0xAB04 = some (.respMoveEnd [0xAB#8, 0x04#8, 0x00#8, 0x00#8, 0x00#8, 0x00#8]) := by
  decide +kernel

/-! ## WellFormed: an ill-formed term for each check -/

theorem test_wf_tc : Config.tc.wf = true := by decide +kernel

/-- R97: width, place, mask, overlap, parity place, range. -/
theorem test_wf_layout_refuses :
    Field.wf 8 (.unsigned .status 3 3) = false ∧ Field.wf 8 (.unsigned .status 2 1) = false ∧
      Field.wf 8 (.unsigned .status 6 2) = false ∧ Field.wf 8 ⟨.status, 3, 2, false, 0x7F#8⟩ = false ∧
      Field.apart (.unsigned .status 3 2) (.unsigned .qdepth 4 1) = false ∧
      Parity.wf 7 [.unsigned .status 5 1] (.stub 5) = false ∧ Parity.wf 7 [] (.byteXor 2 1 1) = false ∧
      Parity.wf 7 [] (.byteXor 5 1 5) = false ∧ Parity.wf 7 [] (.byteXor 5 3 2) = false ∧
      Parity.wf 7 [] (.bitXor 5 8 1 4) = false ∧ Parity.wf 7 [.unsigned .status 5 1] (.bitXor 5 7 1 4) = false := by
  decide +kernel

theorem test_wf_layout_length :
    Layout.wf ⟨.request, 3, [], .none⟩ = false ∧ Layout.wf ⟨.request, 43, [], .none⟩ = false ∧
      Layout.wf ⟨.request, 8, [.unsigned .status 3 1, .unsigned .status 4 1], .none⟩ = false ∧
      Layout.hasFields ⟨.request, 8, [], .none⟩ [.status] = false := by decide +kernel

/-- R8: one broken constraint each. -/
theorem test_wf_config_refuses :
    ({ Config.tc with fHf := 0 }).numbersOk = false ∧ ({ Config.tc with fLf := 0 }).numbersOk = false ∧
      ({ Config.tc with qcap := 0 }).numbersOk = false ∧ ({ Config.tc with pidShift := 32 }).numbersOk = false ∧
      ({ Config.tc with xferLen := 3 }).numbersOk = false ∧ ({ Config.tc with microstepReset := 0 }).numbersOk = false ∧
      ({ Config.tc with microstepReset := 257 }).numbersOk = false ∧ ({ Config.tc with pulseHigh := 0 }).numbersOk = false ∧
      ({ Config.tc with vFloor := 0 }).numbersOk = false ∧ ({ Config.tc with derivFiltShift := 32 }).numbersOk = false ∧
      ({ Config.tc with thrMinFrac := 65537 }).numbersOk = false ∧ ({ Config.tc with thrErrTh := 0 }).numbersOk = false ∧
      ({ Config.tc with fVisc := 65537 }).numbersOk = false ∧ ({ Config.tc with encCpr := ⟨1, 0, 1⟩ }).numbersOk = false ∧
      ({ Config.tc with fullStepsPerRev := 0 }).numbersOk = false ∧ ({ Config.tc with routerCap := 41 }).numbersOk = false ∧
      ({ Config.tc with respFifoCap := 0 }).numbersOk = false ∧ ({ Config.tc with rxqCap := 0 }).numbersOk = false := by
  decide +kernel

theorem test_wf_markers_refuse :
    ({ Config.tc with tailReq := 0xAA#8 }).markersOk = false ∧ ({ Config.tc with tailResp := 0xAB#8 }).markersOk = false ∧
      ({ Config.tc with hdrResp := 0xAA#8 }).markersOk = false ∧ ({ Config.tc with tailResp := 0x55#8 }).markersOk = false ∧
      ({ Config.tc with busy := 0xA1#8 }).markersOk = false ∧ ({ Config.tc with poll := 0xA1#8 }).markersOk = false ∧
      ({ Config.tc with ready := 0xAA#8 }).markersOk = false := by decide +kernel

theorem test_wf_codes_layouts_widths_refuse :
    ({ Config.tc with reqCode := { Config.tc.reqCode with home := 1#8 } }).codesOk = false ∧
      ({ Config.tc with respCode := { Config.tc.respCode with status := 1#8 } }).codesOk = false ∧
      ({ Config.tc with stEstop := 0#8 }).codesOk = false ∧
      ({ Config.tc with ackLayout := Layout.defaultReq.home }).layoutsOk = false ∧
      ({ Config.tc with reqLayout := { Layout.defaultReq with home := Layout.defaultAck } }).layoutsOk = false ∧
      ({ Config.tc with qcap := 65536 }).widthsOk = false ∧ ({ Config.tc with routerCap := 256 }).widthsOk = false ∧
      ({ Config.tc with respFifoCap := 256 }).widthsOk = false ∧ ({ Config.tc with pulseHigh := 2 ^ 32 }).widthsOk = false ∧
      ({ Config.tc with pulseLow := 2 ^ 32 }).widthsOk = false ∧ ({ Config.tc with enSettle := 2 ^ 32 }).widthsOk = false ∧
      ({ Config.tc with dirSettle := 2 ^ 32 }).widthsOk = false := by decide +kernel

/-- The smoke test of instructions: lengths, header, type. -/
theorem test_wf_instr_refuses :
    (Instr.rxTransfer (zeros 41)).wf .tc = false ∧ (Instr.fifoPushExt (zeros 256)).wf .tc = false ∧
      (Instr.reqStartMove [0xAA#8, 0x03#8, 0x22#8]).wf .tc = false ∧ (Instr.reqStartMove end30).wf .tc = false ∧
      (Instr.reqStartMove ackStart22).wf .tc = false ∧ (Instr.reqProbeLevel (probe28 ++ zeros 39)).wf .tc = false ∧
      (Instr.respMoveEnd end30).wf .tc = false ∧ (Instr.respMoveEnd ackStart22).wf .tc = false ∧
      (Instr.respMoveEnd (moveEnd11 ++ zeros 37)).wf .tc = false ∧ (Instr.respMoveEnd [0xAB#8, 0x04#8, 0#8]).wf .tc = false := by
  decide +kernel

/-! ## The codec (95_test_vectors.md 1.2, 1.3, 1.8, 2.2) -/

theorem test_parity :
    byteXor [0xAA#8, 0x03#8, 0x22#8] 1 2 = 0x21#8 ∧ checkParity (.bitXor 3 7 1 3) led26 = true ∧
      checkParity (.bitXor 3 7 1 3) [0xAA#8, 0x07#8, 0x26#8, 0x15#8, 0x55#8] = false := by decide +kernel

theorem test_start_move_verdicts :
    decodeReq .tc .startMove start22 = .ok ⟨0x22#8, []⟩ ∧
      decodeReq .tc .startMove [0xAA#8, 0x03#8, 0x22#8, 0x20#8, 0x55#8] = .error .frameError ∧
      decodeReq .tc .startMove (start22 ++ [0x00#8]) = .error .frameError ∧
      decodeReq .tc .startMove [0xAA#8, 0x03#8, 0x22#8, 0x21#8] = .error .invalidArgument := by decide +kernel

/-- The scenario of 1.8: both directions. -/
theorem test_move_queue_add_scenario :
    let g : MoveSegment :=
      ⟨⟨10000#32, 20000#32, 30000#32⟩, ⟨100#32, 200#32, 300#32⟩, ⟨1#16, 4#16, 7#16⟩, ⟨2#16, 5#16, 8#16⟩,
        ⟨3#16, 6#16, 9#16⟩, 0x05#8, 0x11#8⟩
    let f : List Byte :=
      [0xAA#8, 0x01#8, 0x11#8, 0x05#8, 0x00#8, 0x64#8, 0x00#8, 0x00#8, 0x27#8, 0x10#8, 0x00#8, 0x01#8, 0x00#8, 0x02#8,
       0x00#8, 0x03#8, 0x00#8, 0xC8#8, 0x00#8, 0x00#8, 0x4E#8, 0x20#8, 0x00#8, 0x04#8, 0x00#8, 0x05#8, 0x00#8, 0x06#8,
       0x01#8, 0x2C#8, 0x00#8, 0x00#8, 0x75#8, 0x30#8, 0x00#8, 0x07#8, 0x00#8, 0x08#8, 0x00#8, 0x09#8, 0x89#8, 0x55#8]
    encodeReq .tc .moveQueueAdd (recordOfSegment g) = f ∧
      (decodeReq .tc .moveQueueAdd f).toOption.map segmentOf = some g := by decide +kernel

theorem test_encode_requests :
    encodeReq .tc .startMove (recordOfFid 0x22#8) = start22 ∧
      encodeReq .tc .setOrigin (recordOfOrigin 0x24#8 0x01#8 ⟨1000#32, 0#32, 0#32⟩) = origin24 ∧
      encodeReq .tc .ledControl (recordOfLed 0x26#8 0x05#8) = led26 ∧
      encodeReq .tc .home (recordOfHome 0x27#8 0x07#8) = home27 ∧
      encodeReq .tc .microsteps (recordOfMicrosteps 0x29#8 256#16) = micro256 ∧
      encodeReq .tc .autoFriction (recordOfFriction 0x2A#8 1#8) = friction2A := by decide +kernel

theorem test_encode_responses :
    encodeResp .tc .ackMoveQueueAdd (recordOfAck 0x41#8 1#8 255#8) =
        [0xAB#8, 0x01#8, 0x41#8, 0x01#8, 0xFF#8, 0xBE#8, 0x54#8] ∧
      encodeResp .tc .moveEnd (recordOfMoveEnd 0x00#8 6#8) = [0xAB#8, 0x04#8, 0x00#8, 0x06#8, 0x02#8, 0x54#8] ∧
      encodeResp .tc .encStatus (recordOfEncStatus 0x25#8 ⟨1000#64, BitVec.ofInt 64 (-2), 0#64⟩) =
        [0xAB#8, 0x06#8, 0x25#8, 0x00#8, 0x00#8, 0x03#8, 0xE8#8, 0xFF#8, 0xFF#8, 0xFF#8, 0xFE#8, 0x00#8, 0x00#8, 0x00#8,
         0x00#8, 0xC9#8, 0x54#8] := by decide +kernel

/-- The STATUS example of R157. -/
theorem test_encode_status :
    encodeResp .tc .status
        ⟨0x21#8, [(.state, 2), (.qdepth, 0), (.pct .x, 50), (.pct .y, 100), (.pct .z, 100), (.err .x, -3), (.err .y, 0),
          (.err .z, 127)]⟩ =
      [0xAB#8, 0x02#8, 0x21#8, 0x02#8, 0x00#8, 0x32#8, 0x64#8, 0x64#8, 0xFD#8, 0x00#8, 0x7F#8, 0x91#8, 0x54#8] := by
  decide +kernel

/-! ## Small states -/

/-- TC with small buffers and every axis closed-loop on X. -/
def small : Config := { Config.tc with qcap := 2, respFifoCap := 3 }

/-- Runs instructions (a stop is skipped). -/
def after (is : List Instr) (s : State) : State :=
  is.foldl (fun s i => match exec i s with | .next t => t | .fault _ => s | .refused _ => s) s

def idle : State := .resetWith small
def queued : State := after [.reqMoveQueueAdd addX] idle
def running : State := after [.reqStartMove start22] queued
/-- X's line is high. -/
def pulsing : State := after [.tickHf] running
/-- Two segments queued: the move queue is full. -/
def full : State := after [.reqMoveQueueAdd addY] queued
/-- The first segment runs, the second is queued. -/
def chaining : State := after [.reqStartMove start22] full
/-- Three responses: the response FIFO is full. -/
def fifoFull : State := after [.fifoPushExt [1#8, 2#8, 3#8], .fifoPushExt [4#8, 5#8], .fifoPushExt [6#8]] idle
def unsafeState : State := after [.setSafe0] idle
def pending : State := after [.fifoPushExt moveEnd11, .loadPending] idle
def done : State := after [.tickHf, .tickHf, .tickHf, .tickHf, .tickHf, .tickHf] running

/-! ## One step of each instruction -/

theorem test_reset_reads_nop : step idle = .next (idle.ok .unit) := rfl
theorem test_step_runs_word :
    ∃ t, step (idle.withFetchWord 16 0xB000) = .next t ∧ t.ctl.safe = false ∧ t.port = [] :=
  ⟨_, by rfl, by decide +kernel, by decide +kernel⟩

/-- R170: a byte that starts no frame is discarded; a header is kept. -/
theorem test_rx_byte :
    (after [.rxByte 0x13#8] idle).rt.idx = 0#8 ∧ (after [.rxByte 0xAA#8] idle).rt.idx = 1#8 := by decide +kernel
/-- 95_test_vectors.md 2.3, second row: type 0x55 is unknown. -/
theorem test_rx_unhandled : (after ([0xAA#8, 0x55#8, 0x55#8, 0x55#8].map .rxByte) idle).cnt.unhandled = 1#32 := by
  decide +kernel
/-- R171 and 2.3: a poll, and a frame in a transfer. -/
theorem test_rx_transfer :
    (after [.rxTransfer (0x00#8 :: start22 ++ zeros 36)] idle).cnt.poll = 1#32 ∧
      (after [.rxTransfer (start22 ++ zeros 37)] idle).held = [[0xAB#8, 0x03#8, 0x22#8, 0x04#8, 0x00#8, 0x25#8, 0x54#8]] := by
  decide +kernel
/-- P2, tick 1. -/
theorem test_tick_hf_steps :
    pulsing.ax.x.emitted = 1#32 ∧ pulsing.ax.x.highHold = 1#32 ∧ pulsing.pin.x = ⟨true, true, true⟩ := by decide +kernel
/-- P2, tick 6. -/
theorem test_tick_hf_done :
    done.fsm = .done ∧ done.pin.x = ⟨false, true, false⟩ ∧ done.held = [ackAdd11, ackStart22, moveEnd11] := by
  decide +kernel
/-- P5: -16, then +32. -/
theorem test_tick_lf_encoder :
    (after [.tickLf ⟨0xFFF0#32, 0#32, 0#32⟩] idle).enc.x.cum.toInt = -16 ∧
      (after [.tickLf ⟨0xFFF0#32, 0#32, 0#32⟩, .tickLf ⟨0x10#32, 0#32, 0#32⟩] idle).enc.x.cum.toInt = 16 := by
  decide +kernel
/-- R286: X alone has work. -/
theorem test_tick_lf_master : (after [.tickLf (.same 0#32)] running).ctl.master = some .x := by decide +kernel
/-- R237, with no active segment and with one (P7). -/
theorem test_estop :
    (after [.estop] idle).held = [[0xAB#8, 0x04#8, 0x00#8, 0x06#8, 0x02#8, 0x54#8]] ∧
      (after [.fifoPop 42#8, .estop] pulsing).trace =
        pulsing.trace ++ [.stepLow .x, .drvDisable .x] := by decide +kernel
/-- P1. -/
theorem test_fifo_pop :
    (after [.fifoPop 2#8] fifoFull).result = .err .rangeError ∧
      (after [.fifoPop 42#8] fifoFull).result = .ok (.popped 3#8 [1#8, 2#8, 3#8]) := by decide +kernel
theorem test_load_pending :
    pending.result = .ok (.loaded true) ∧ (after [.loadPending] pending).result = .ok (.loaded false) := by decide +kernel
/-- R208: injected and padded with READY; then plain. -/
theorem test_prime :
    (after [.prime 0xB1#8] pending).spi.tx = moveEnd11 ++ List.replicate 36 0xA1#8 ∧
      (after [.prime 0x77#8] idle).result = .ok (.primed .unrecognized) := by decide +kernel
theorem test_status_select :
    (after [.statusSelect 3#8] idle).result = .ok (.status 0xA1#8) ∧
      (after [.statusSelect 4#8] idle).result = .ok (.status 0xB1#8) := by decide +kernel
theorem test_fifo_push_ext :
    (after [.fifoPushExt []] idle).result = .err .invalidArgument ∧
      (after [.fifoPushExt [1#8]] fifoFull).result = .err .allocationError := by decide +kernel
theorem test_set_safe : unsafeState.ctl.safe = false ∧ (after [.setSafe1] unsafeState).ctl.safe = true := by decide +kernel
theorem test_fifo_count : (after [.fifoCount] fifoFull).result = .ok (.count 3#8) := by decide +kernel
/-- 95_test_vectors.md 2.9: RESET in Running with X high. -/
theorem test_reset :
    (after [.reset] pulsing).trace = pulsing.trace ++ [.stepLow .x, .drvDisable .x] ∧
      (after [.reset] pulsing).fsm = .idle ∧ (after [.reset] pulsing).rf.count = 0#8 := by decide +kernel
theorem test_nop : exec .nop idle = .next (idle.ok .unit) := rfl
theorem test_reserved :
    exec (.reservedD 0x123#12) idle = .refused .reservedOpD ∧ exec (.reservedE 0#12) idle = .refused .reservedOpE :=
  ⟨rfl, rfl⟩

/-- R181: OK, NOT_SAFE. -/
theorem test_move_queue_add :
    (queued.fsm, queued.q.count, queued.q.qsum.x, queued.held) = (.queued, 1#16, 3#64, [ackAdd11]) ∧
      (after [.reqMoveQueueAdd addX] unsafeState).held = [[0xAB#8, 0x01#8, 0x11#8, 0x02#8, 0x00#8, 0x12#8, 0x54#8]] := by
  decide +kernel
/-- R181: QUEUE_FULL, the depth 2. -/
theorem test_move_queue_full : (after [.reqMoveQueueAdd addX] full).held =
    [ackAdd11, [0xAB#8, 0x01#8, 0x12#8, 0x00#8, 0x02#8, 0x11#8, 0x54#8],
      [0xAB#8, 0x01#8, 0x11#8, 0x01#8, 0x02#8, 0x13#8, 0x54#8]] := by decide +kernel
theorem test_move_queue_status : (after [.reqMoveQueueStatus status21] idle).held = [statusIdle] := by decide +kernel
/-- The begin of R230's example, in TC. -/
theorem test_start_move :
    running.fsm = .running ∧ running.seg = ⟨true, 0x11#8, 0x01#8⟩ ∧ running.ax.x.incr = 65536#32 ∧
      running.trace = [.setDir .x true, .drvEnable .x, .setDir .y false, .setDir .z false] := by decide +kernel
theorem test_start_move_not_ready :
    (after [.reqStartMove start22] idle).held = [[0xAB#8, 0x03#8, 0x22#8, 0x04#8, 0x00#8, 0x25#8, 0x54#8]] := by
  decide +kernel
theorem test_move_end :
    (after [.reqMoveEnd end30] idle).held = [[0xAB#8, 0x04#8, 0x30#8, 0x05#8, 0x31#8, 0x54#8]] ∧
      (after [.reqMoveEnd end30] pulsing).pin.x = ⟨false, true, false⟩ := by decide +kernel
/-- P5. -/
theorem test_set_origin_and_encoder_status :
    (after [.tickLf ⟨0xFFF0#32, 0#32, 0#32⟩, .tickLf ⟨0x10#32, 0#32, 0#32⟩, .reqSetOrigin origin24,
      .tickLf ⟨0x24#32, 0#32, 0#32⟩, .reqEncoderStatus encoder25] idle).held = [ackOrigin24, encStatus25] := by
  decide +kernel
theorem test_forwarded :
    (after [.reqLedControl led26, .reqHome home27, .reqProbeLevel probe28] idle).trace =
      [.extService .ledControl led26, .extService .home home27, .extService .probeLevel probe28] := by decide +kernel
theorem test_microsteps :
    (after [.reqMicrosteps micro256] idle).ctl.microsteps = 256#16 ∧
      (after [.reqMicrosteps micro257] idle).ctl.microsteps = 1#16 := by decide +kernel
theorem test_microsteps_zero :
    (after [.reqMicrosteps micro0] idle).held = [[0xAB#8, 0x0A#8, 0x29#8, 0x03#8, 0x00#8, 0x20#8, 0x54#8]] := by
  decide +kernel
theorem test_auto_friction :
    (after [.reqAutoFriction friction2A] full).fsm = .idle ∧ (after [.reqAutoFriction friction2A] full).q.count = 0#16 ∧
      (after [.reqAutoFriction friction2A] idle).held = [ackFriction2A] := by decide +kernel
theorem test_responses :
    (after [.respAckMoveQueueAdd ackAdd11, .respStatus statusIdle, .respMoveEnd moveEnd11] idle).held =
        [ackAdd11, statusIdle, moveEnd11] ∧
      (after [.respEncStatus encStatus25, .respAckMicrosteps ackMicro29, .respAckAutoFriction ackFriction2A] idle).held =
        [encStatus25, ackMicro29, ackFriction2A] := by decide +kernel
theorem test_responses_start_origin :
    (after [.respAckStartMove ackStart22, .respAckSetOrigin ackOrigin24] idle).held = [ackStart22, ackOrigin24] := by
  decide +kernel

/-! ## Functions of the control loop (95_test_vectors.md 2.8) -/

theorem test_encoder_delta :
    encDelta 16 0xFFF0#32 0x10#32 = 32 ∧ encDelta 16 0x10#32 0xFFF0#32 = -32 ∧ encDelta 16 0#32 0x8000#32 = -32768 ∧
      encDelta 32 0xFFFFFFFE#32 3#32 = 5 := by decide +kernel
theorem test_counts_to_steps :
    encToSteps .tc 1#16 .x 400 = 100 ∧ encToSteps .tc 1#16 .x (-3) = 0 ∧ encToSteps .tc 1#16 .x (-4) = -1 ∧
      encToSteps .tc 16#16 .x 400 = 1600 := by decide +kernel
theorem test_throttle :
    throttle .tc 10000 50 = 6250 ∧ throttle .tc 10000 100 = 2500 ∧ throttle .tc 10000 (-500) = 2500 ∧
      throttle .tc 10000 0 = 10000 := by decide +kernel
def fresh (e : Int) (kp kd : U16) : AxisState := { AxisState.zero with err := BitVec.ofInt 32 e, kp := kp, kd := kd }
theorem test_pid :
    pidOut .tc (fresh 10 256#16 0#16) = 10 ∧ (pidUpdate .tc (fresh 10 256#16 0#16)).dFilt = 2#32 ∧
      pidOut .tc (fresh 10 256#16 256#16) = 12 ∧ pidOut .tc (fresh (-5) 256#16 0#16) = -5 ∧
      pidRaw .tc (fresh 10000 65535#16 0#16) = 2559960 ∧ pidOut .tc (fresh 10000 65535#16 0#16) = 1000 ∧
      (pidUpdate .tc (fresh 10000 65535#16 0#16)).integ = 0#32 := by decide +kernel
def moving (v f : U32) (b : Bool) : AxisState := { AxisState.zero with vActual := v, accFrac := f, braking := b }
theorem test_ramp :
    (ramp { Config.tc with accel := 1500 } 10000 false (moving 0#32 0#32 false)).vActual = 1#32 ∧
      (ramp { Config.tc with accel := 1500 } 10000 false (moving 1#32 32768#32 false)).vActual = 3#32 ∧
      (ramp { Config.tc with accel := 50000 } 10000 true (moving 1000#32 0#32 false)).vActual = 950#32 ∧
      (ramp { Config.tc with accel := 50000, vFloor := 20 } 10000 true (moving 30#32 0#32 false)).vActual = 20#32 := by
  decide +kernel
theorem test_velocity_maps :
    [100, 101, 102, 500, 25000].map (outVel .tc true) = [0, 0, 1, 300, 18675] ∧
      [0, 1, 100, 12500, 24999, 25000, 30000].map (velToIncr .tc) = [0, 1, 131, 21845, 65530, 65536, 65536] := by
  decide +kernel

/-! ## Good states, decided

The checks of a step (Sys2Proof/Laws/Checks.lean says what they say) and the rest of a good state, as a Boolean. -/

def checkRouter (c : Config) (r : Router) : Bool :=
  decide (r.buf.length = c.routerCap ∧ r.idx.toNat ≤ c.routerCap ∧ (r.idx ≠ 0#8 → byteAt r.buf 0 = c.hdrReq) ∧
    ∀ k < r.idx.toNat, 3 ≤ k → byteAt r.buf k ≠ c.tailReq)
theorem checkRouter_ok {c : Config} {r : Router} (h : checkRouter c r = true) : RouterOk c r := by
  simp only [checkRouter, decide_eq_true_eq] at h
  exact ⟨h.1, h.2.1, h.2.2.1, fun k h3 hk => h.2.2.2 k hk h3⟩

def checkGood (s : State) : Bool :=
  s.cfg.wf && s.fsm.between && s.shaped && s.consistent && checkRouter s.cfg s.rt &&
    decide (s.spi.pending.valid = true → 1 ≤ s.spi.pending.len.toNat)
theorem checkGood_ok {s : State} (h : checkGood s = true) : s.Good := by
  simp only [checkGood, Bool.and_eq_true, decide_eq_true_eq] at h
  obtain ⟨⟨⟨⟨⟨h1, h2⟩, h3⟩, h4⟩, h5⟩, h6⟩ := h
  have hs := (sound_iff s).2 ⟨h2, h3, h4⟩
  exact ⟨h1, hs.queue, hs.axes, hs.engine, hs.fifo, checkRouter_ok h5,
    ⟨hs.pending.1, fun hv => ⟨h6 hv, hs.pending.2 hv⟩, hs.tx⟩, hs.control⟩

theorem good_idle : idle.Good := checkGood_ok (by decide +kernel)
theorem good_queued : queued.Good := checkGood_ok (by decide +kernel)
theorem good_running : running.Good := checkGood_ok (by decide +kernel)
theorem good_pulsing : pulsing.Good := checkGood_ok (by decide +kernel)
theorem good_full : full.Good := checkGood_ok (by decide +kernel)
theorem good_chaining : chaining.Good := checkGood_ok (by decide +kernel)
theorem good_done : done.Good := checkGood_ok (by decide +kernel)
theorem good_fifoFull : fifoFull.Good := checkGood_ok (by decide +kernel)
theorem good_unsafe : unsafeState.Good := checkGood_ok (by decide +kernel)
theorem good_pending : pending.Good := checkGood_ok (by decide +kernel)

/-! ## Witnesses: the hypotheses of each obligation are met -/

/-- The record a frame decodes to. -/
def recordOf (s : State) (t : ReqType) (f : List Byte) : Record :=
  match decodeReq s.cfg t f with
  | .ok r => r
  | .error _ => ⟨0#8, []⟩

theorem witness_StepRunsDecoded :
    idle.cfg.wf = true ∧ idle.Sound ∧ idle.port = [] ∧ decode idle.cfg idle.nextItem = .ok .nop ∧
      decode idle.cfg (idle.withFetchWord 16 0xB001).nextItem = .ok .setSafe1 ∧ (idle.withFetchWord 16 0xB001).Sound :=
  ⟨good_idle.cfg, good_idle.sound, by decide +kernel, by decide +kernel, by decide +kernel,
    (checkGood_ok (by decide +kernel)).sound⟩
theorem witness_DecodeEncodeAgree :
    small.wf = true ∧ (Instr.rxTransfer (zeros 42)).wf small = true ∧ (Instr.fifoPushExt (zeros 255)).wf small = true ∧
      (Instr.reqMoveQueueAdd addX).wf small = true ∧ (Instr.respMoveEnd moveEnd11).wf small = true := by decide +kernel
theorem witness_EncodeOfDecoded :
    small.wf = true ∧ decode small (.command (.ofWord 0x602A#16)) = .ok (.fifoPop 42#8) ∧
      decode small (.message start22) = .ok (.reqStartMove start22) := by decide +kernel
/-- Words on either side of each clause of R92. -/
theorem witness_IllegalWordsRefused :
    (illegalWord 0xD000#16 ∧ illegalWord 0xE000#16 ∧ illegalWord 0x0100#16 ∧ illegalWord 0x0001#16 ∧
      illegalWord 0xB002#16) ∧
    (¬ illegalWord 0x0000#16 ∧ ¬ illegalWord 0x1000#16 ∧ ¬ illegalWord 0x10FF#16 ∧ ¬ illegalWord 0xB000#16 ∧
      ¬ illegalWord 0xB001#16 ∧ ¬ illegalWord 0xC000#16 ∧ ¬ illegalWord 0xF000#16) ∧
    (idle.cfg = small ∧ small.wf = true ∧ (zeros 42).length = small.xferLen ∧ ([] : List Byte).length ≤ 255) ∧
      ({ idle with port := [.command (.ofWord 0xD000#16)] } : State).Sound := by
  refine ⟨?_, ?_, by decide +kernel, (checkGood_ok (by decide +kernel)).sound⟩ <;>
    simp [illegalWord, opOf, argOf, dataOf]
theorem witness_CodecRoundTrip :
    small.wf = true ∧
      RecordFits (small.reqLayout.get .setOrigin) (recordOfOrigin 0x24#8 0x03#8 ⟨1000#32, BitVec.ofInt 32 (-1), 0#32⟩) ∧
      RecordFits (small.reqLayout.get .ledControl) (recordOfLed 0x26#8 0x7F#8) ∧
      RecordFits (small.respLayout .status) (idle.snapshot 0x21#8) := by
  refine ⟨by decide +kernel, ⟨by decide +kernel, ?_⟩, ⟨by decide +kernel, ?_⟩, ⟨by decide +kernel, ?_⟩⟩ <;>
    unfold FieldFits <;> decide +kernel
theorem witness_WriteParityRule :
    Parity.wf 5 [] .none = true ∧ Parity.wf 5 [] (.stub 3) = true ∧ Parity.wf 5 [] (.byteXor 3 1 2) = true ∧
      Parity.wf 5 [⟨.ledBits, 3, 1, false, 0x7F#8⟩] (.bitXor 3 7 1 3) = true ∧ start22.length = 5 ∧
      Layout.defaultReq.startMove.wf = true := by decide +kernel
/-- A covered byte at each end of the range, and the parity's own. -/
theorem witness_ParityCatchesOneBit :
    Parity.wf 5 [] (.byteXor 3 1 2) = true ∧ checkParity (.byteXor 3 1 2) start22 = true ∧
      (coveredBit (.byteXor 3 1 2) 1 0 ∧ coveredBit (.byteXor 3 1 2) 2 7 ∧ coveredBit (.byteXor 3 1 2) 3 0) ∧
      checkParity (.bitXor 3 7 1 3) led26 = true ∧
      (coveredBit (.bitXor 3 7 1 3) 1 0 ∧ coveredBit (.bitXor 3 7 1 3) 3 6 ∧ coveredBit (.bitXor 3 7 1 3) 3 7) ∧
      checkParity (.stub 3) status21 = true := by
  simp only [coveredBit]; decide +kernel
theorem witness_BigEndianBuffers :
    0 + 5 ≤ start22.length ∧ (Field.twos (.base .x) 1 4).signed = true ∧ (Field.twos (.base .x) 1 4).w ≠ 1 := by
  decide +kernel
theorem witness_DecoderVerdict :
    start22.length = Layout.defaultReq.startMove.len ∧ (start22.take 4).length < Layout.defaultReq.startMove.len ∧
      Layout.defaultReq.startMove.len ≤ (start22 ++ [0#8]).length ∧ byteAt start22 0 = 0xAA#8 ∧ byteAt start22 1 = 0x03#8 ∧
      byteAt start22 4 = 0x55#8 ∧ checkParity Layout.defaultReq.startMove.parity start22 = true ∧ byteAt end30 1 ≠ 0x03#8 := by
  decide +kernel
theorem witness_EncoderWrites :
    Layout.defaultReq.moveQueueAdd.wf = true ∧ (zeros 41).length < 42 ∧ 42 ≤ (zeros 42).length ∧
      Layout.defaultReq.probeLevel.wf = true := by decide +kernel
theorem witness_MoveSegmentCodec :
    small.wf = true ∧ small.reqLayout.moveQueueAdd = Layout.defaultReq.moveQueueAdd ∧
      ∀ i, ((PerAxis.same 0xFFFF#32).get i).toNat < 2 ^ 16 :=
  ⟨by decide +kernel, rfl, fun i => by cases i <;> decide⟩

/-- A full accumulator. -/
def overflowing : State := after ((0xAA#8 :: zeros 41).map .rxByte) idle
/-- One byte short of a frame. -/
def oneShort : State := after ((start22.take 4).map .rxByte) idle
theorem good_overflowing : overflowing.Good := checkGood_ok (by decide +kernel)
theorem good_oneShort : oneShort.Good := checkGood_ok (by decide +kernel)
/-- Discard; dispatch at the fourth byte at the earliest; accumulation; and the same after an overflow. -/
theorem witness_RouterByteRule :
    RouterOk oneShort.cfg oneShort.rt ∧ oneShort.accumulated = start22.take 4 ∧ oneShort.cfg.tailReq = 0x55#8 ∧
      RouterOk overflowing.cfg overflowing.rt ∧ overflowing.rt.idx.toNat = overflowing.cfg.routerCap ∧
      RouterOk idle.cfg idle.rt ∧ byteAt (idle.accumulated ++ [0x13#8]) 0 ≠ idle.cfg.hdrReq :=
  ⟨good_oneShort.router, by decide +kernel, rfl, good_overflowing.router, by decide +kernel, good_idle.router,
    by decide +kernel⟩
theorem witness_StreamedFrameDispatches :
    RouterOk idle.cfg idle.rt ∧ idle.rt.idx = 0#8 ∧ 4 ≤ probe28.length ∧ probe28.length ≤ idle.cfg.routerCap ∧
      byteAt probe28 0 = idle.cfg.hdrReq ∧ byteAt probe28 3 = idle.cfg.tailReq ∧ addX.length = idle.cfg.routerCap ∧
      ∀ k < 41, 3 ≤ k → byteAt addX k ≠ idle.cfg.tailReq :=
  ⟨good_idle.router, by decide +kernel, by decide, by decide, by decide, by decide, by decide +kernel, by decide +kernel⟩
/-- VEL_X = 0x0055: cut at offset 5 (95_test_vectors.md 2.3). -/
theorem witness_TailInPayloadTruncates :
    let f : List Byte := [0xAA#8, 0x01#8, 0x11#8, 0x01#8, 0x00#8, 0x55#8] ++ zeros 34 ++ [0x00#8, 0x55#8]
    RouterOk idle.cfg idle.rt ∧ idle.rt.idx = 0#8 ∧ f.length = (idle.cfg.reqLayout.get .moveQueueAdd).len ∧
      byteAt f 0 = idle.cfg.hdrReq ∧ byteAt f 1 = idle.cfg.reqCode.get .moveQueueAdd ∧ byteAt f 5 = idle.cfg.tailReq ∧
      ∀ j < 5, 3 ≤ j → byteAt f j ≠ idle.cfg.tailReq :=
  ⟨good_idle.router, by decide +kernel, by decide +kernel, by decide, by decide, by decide, by decide⟩
theorem witness_MalformedRequestDropped :
    decodeReq idle.cfg .startMove (start22.take 4) = .error .invalidArgument ∧
      decodeReq idle.cfg .startMove end30 = .error .frameError := by decide +kernel
theorem witness_DispatchByType :
    idle.cfg.wf = true ∧ idle.cfg.reqCode.get .startMove = byteAt start22 1 ∧
      ∀ t ∈ ReqType.all, idle.cfg.reqCode.get t ≠ byteAt [0xAA#8, 0x55#8, 0x55#8, 0x55#8] 1 := by decide +kernel
theorem witness_TransferIsItsBytes :
    byteAt (zeros 42) 0 = idle.cfg.poll ∧ byteAt (start22 ++ zeros 37) 0 ≠ idle.cfg.poll := by decide +kernel

theorem witness_PushRule :
    FifoOk idle.cfg idle.rf ∧ idle.cfg.wf = true ∧ idle.rf.count.toNat < idle.cfg.respFifoCap ∧
      FifoOk fifoFull.cfg fifoFull.rf ∧ fifoFull.rf.count.toNat = fifoFull.cfg.respFifoCap ∧
      (zeros 0).length = 0 ∧ 1 ≤ (zeros 1).length ∧ (zeros 42).length ≤ 42 ∧ 42 < (zeros 43).length :=
  ⟨good_idle.fifo, good_idle.cfg, by decide +kernel, good_fifoFull.fifo, by decide +kernel, by decide, by decide,
    by decide, by decide⟩
theorem witness_PopRule :
    FifoOk idle.cfg idle.rf ∧ idle.held = [] ∧ FifoOk fifoFull.cfg fifoFull.rf ∧
      fifoFull.held = [[1#8, 2#8, 3#8], [4#8, 5#8], [6#8]] ∧ (2#8).toNat < 3 ∧ 3 ≤ (3#8).toNat :=
  ⟨good_idle.fifo, by decide +kernel, good_fifoFull.fifo, by decide +kernel, by decide, by decide⟩
theorem witness_FifoOrder :
    FifoOk idle.cfg idle.rf ∧ idle.rf.count = 0#8 ∧ [[1#8, 2#8, 3#8], [4#8], zeros 42].length = idle.cfg.respFifoCap ∧
      ∀ f ∈ [[1#8, 2#8, 3#8], [4#8], zeros 42], 1 ≤ f.length ∧ f.length ≤ 42 ∧ f.length ≤ (42#8).toNat :=
  ⟨good_idle.fifo, by decide +kernel, by decide +kernel, by decide⟩
theorem witness_LoadPendingRule :
    FifoOk pending.cfg pending.rf ∧ SpiOk pending.cfg pending.spi ∧ pending.spi.pending.valid = true ∧
      FifoOk fifoFull.cfg fifoFull.rf ∧ SpiOk fifoFull.cfg fifoFull.spi ∧ fifoFull.spi.pending.valid = false ∧
      fifoFull.held ≠ [] ∧ idle.spi.pending.valid = false ∧ idle.held = [] :=
  ⟨good_pending.fifo, good_pending.spi, by decide +kernel, good_fifoFull.fifo, good_fifoFull.spi, by decide +kernel,
    by decide +kernel, by decide +kernel, by decide +kernel⟩
/-- A transfer shorter than a response, as R6 allows. -/
def shortTransfer : State := after [.fifoPushExt moveEnd11, .loadPending] (.resetWith { small with xferLen := 5 })
theorem good_shortTransfer : shortTransfer.Good := checkGood_ok (by decide +kernel)
theorem witness_PrimeRule :
    SpiOk pending.cfg pending.spi ∧ pending.spi.pending.valid = true ∧ pending.spi.pending.len.toNat ≤ pending.cfg.xferLen ∧
      SpiOk shortTransfer.cfg shortTransfer.spi ∧ shortTransfer.spi.pending.valid = true ∧
      shortTransfer.cfg.xferLen < shortTransfer.spi.pending.len.toNat ∧ SpiOk idle.cfg idle.spi ∧
      idle.spi.pending.valid = false :=
  ⟨good_pending.spi, by decide +kernel, by decide +kernel, good_shortTransfer.spi, by decide +kernel, by decide +kernel,
    good_idle.spi, by decide +kernel⟩
theorem witness_ReadingOperations : (3#8).toNat < idle.cfg.rxqCap ∧ idle.cfg.rxqCap ≤ (4#8).toNat := by decide +kernel

theorem witness_MoveQueueAddRule :
    (∀ s ∈ [idle, unsafeState, full],
      decodeReq s.cfg .moveQueueAdd addX = .ok (recordOf s .moveQueueAdd addX)) ∧
      unsafeState.ctl.safe = false ∧ (full.ctl.safe = true ∧ full.q.count.toNat = full.cfg.qcap) ∧
      (idle.ctl.safe = true ∧ idle.q.count.toNat < idle.cfg.qcap) ∧ QueueOk full.cfg full.q ∧ FifoOk full.cfg full.rf ∧
      QueueOk idle.cfg idle.q ∧ FifoOk idle.cfg idle.rf ∧ QueueOk unsafeState.cfg unsafeState.q :=
  ⟨by decide +kernel, by decide +kernel, by decide +kernel, by decide +kernel, good_full.queue, good_full.fifo,
    good_idle.queue, good_idle.fifo, good_unsafe.queue⟩
theorem witness_MoveQueueStatusRule :
    FifoOk pulsing.cfg pulsing.rf ∧ (∀ i, (pulsing.ax.get i).emitted.toNat ≤ (pulsing.ax.get i).total.toNat) ∧
      decodeReq pulsing.cfg .moveQueueStatus status21 = .ok (recordOf pulsing .moveQueueStatus status21) :=
  ⟨good_pulsing.fifo, fun i => (good_pulsing.axes i).emitted, by decide +kernel⟩
theorem witness_StartMoveRule :
    (∀ s ∈ [idle, full, running], decodeReq s.cfg .startMove start22 = .ok (recordOf s .startMove start22)) ∧
      running.seg.active = true ∧ (full.seg.active = false ∧ full.q.count ≠ 0#16) ∧
      (idle.seg.active = false ∧ idle.q.count = 0#16) ∧ QueueOk full.cfg full.q ∧ FifoOk full.cfg full.rf ∧
      QueueOk idle.cfg idle.q ∧ QueueOk running.cfg running.q ∧ FifoOk running.cfg running.rf :=
  ⟨by decide +kernel, by decide +kernel, by decide +kernel, by decide +kernel, good_full.queue, good_full.fifo,
    good_idle.queue, good_running.queue, good_running.fifo⟩
theorem witness_MoveEndRule :
    FifoOk pulsing.cfg pulsing.rf ∧ decodeReq pulsing.cfg .moveEnd end30 = .ok (recordOf pulsing .moveEnd end30) :=
  ⟨good_pulsing.fifo, by decide +kernel⟩
/-- The mask has a bit set and bits clear. -/
theorem witness_SetOriginRule :
    FifoOk idle.cfg idle.rf ∧ decodeReq idle.cfg .setOrigin origin24 = .ok (recordOf idle .setOrigin origin24) ∧
      (BitVec.ofInt 8 ((recordOf idle .setOrigin origin24).get .axisMask)).getLsbD 0 = true ∧
      (BitVec.ofInt 8 ((recordOf idle .setOrigin origin24).get .axisMask)).getLsbD 2 = false :=
  ⟨good_idle.fifo, by decide +kernel, by decide +kernel, by decide +kernel⟩
theorem witness_EncoderStatusRule :
    FifoOk idle.cfg idle.rf ∧ decodeReq idle.cfg .encoderStatus encoder25 = .ok (recordOf idle .encoderStatus encoder25) :=
  ⟨good_idle.fifo, by decide +kernel⟩
theorem witness_ForwardedRequests :
    decodeReq idle.cfg .ledControl led26 = .ok (recordOf idle .ledControl led26) ∧
      decodeReq idle.cfg .home home27 = .ok (recordOf idle .home home27) ∧
      decodeReq idle.cfg .probeLevel probe28 = .ok (recordOf idle .probeLevel probe28) := by decide +kernel
/-- The factors 0, 1, 256 and 257. -/
theorem witness_MicrostepsRule :
    FifoOk idle.cfg idle.rf ∧ (∀ f ∈ [micro0, micro1, micro256, micro257],
      decodeReq idle.cfg .microsteps f = .ok (recordOf idle .microsteps f)) ∧
      [micro0, micro1, micro256, micro257].map (fun f => (recordOf idle .microsteps f).get .microsteps) = [0, 1, 256, 257] :=
  ⟨good_idle.fifo, by decide +kernel, by decide +kernel⟩
theorem witness_AutoFrictionRule :
    FifoOk queued.cfg queued.rf ∧ (∀ f ∈ [friction2A, frictionOff],
      decodeReq queued.cfg .autoFriction f = .ok (recordOf queued .autoFriction f)) ∧
      [friction2A, frictionOff].map (fun f => (recordOf queued .autoFriction f).get .enable) = [1, 0] :=
  ⟨good_queued.fifo, by decide +kernel, by decide +kernel⟩
theorem witness_ResponseRows :
    FifoOk idle.cfg idle.rf ∧ (decodeResp idle.cfg .moveEnd moveEnd11).isOk = true ∧
      decodeResp idle.cfg .moveEnd (moveEnd11.take 5) = .error .invalidArgument ∧
      decodeResp idle.cfg .moveEnd (moveEnd11.set 4 0#8) = .error .frameError :=
  ⟨good_idle.fifo, by decide +kernel, by decide +kernel, by decide +kernel⟩
theorem witness_EstopRule : pulsing.cfg.wf = true ∧ FifoOk pulsing.cfg pulsing.rf := ⟨good_pulsing.cfg, good_pulsing.fifo⟩
theorem witness_ResetRule : pulsing.cfg.wf = true := good_pulsing.cfg

theorem witness_HfTickOutsideRunning : idle.cfg.wf = true ∧ idle.fsm ≠ .running ∧ done.fsm ≠ .running := by
  decide +kernel
/-- Phases 1 and 2 of a tick, by the model's own functions. -/
def phases (s : State) : State := (s.forAxes closePulse).forAxes accumulate
theorem witness_HfTickSteps :
    running.cfg.wf = true ∧ running.fsm = .running ∧ (∀ i, AxisOk running.cfg (running.ax.get i)) ∧
      (phases running).ax.x.emitted ≠ (phases running).ax.x.total :=
  ⟨good_running.cfg, by decide +kernel, good_running.axes, by decide +kernel⟩

/-- X's third step was just made; the last two holds are open. -/
def lastPulse : State := after (List.replicate 5 .tickHf) running
/-- The same with a segment queued, one tick before. -/
def lastTick : State := after (List.replicate 4 .tickHf) chaining
theorem good_lastPulse : lastPulse.Good := checkGood_ok (by decide +kernel)
theorem good_lastTick : lastTick.Good := checkGood_ok (by decide +kernel)
/-- The segment is complete after phases 1 and 2: with one queued; with none and every line low; with none and a line
high. (That `phases` leaves an `HfPhases` state is Laws/Pulse.lean's `afterPhases_spec`.) -/
theorem witness_HfTickCompletes :
    (HfPhases lastTick (phases lastTick) ∧ (∀ i, ((phases lastTick).ax.get i).emitted = ((phases lastTick).ax.get i).total) ∧
        lastTick.q.count ≠ 0#16) ∧
      (HfPhases lastPulse (phases lastPulse) ∧ lastPulse.q.count = 0#16 ∧
        (∀ i, ((phases lastPulse).ax.get i).emitted = ((phases lastPulse).ax.get i).total) ∧
        ∀ i, ((phases lastPulse).ax.get i).highHold = 0#32) ∧
      (∀ i, ((phases (after (List.replicate 4 .tickHf) running)).ax.get i).emitted =
        ((phases (after (List.replicate 4 .tickHf) running)).ax.get i).total) ∧
      ((phases (after (List.replicate 4 .tickHf) running)).ax.get .x).highHold ≠ 0#32 :=
  ⟨⟨afterPhases_spec _ good_lastTick.cfg good_lastTick.axes, fun i => by cases i <;> decide +kernel, by decide +kernel⟩,
    ⟨afterPhases_spec _ good_lastPulse.cfg good_lastPulse.axes, by decide +kernel, fun i => by cases i <;> decide +kernel,
      fun i => by cases i <;> decide +kernel⟩,
    fun i => by cases i <;> decide +kernel, by decide +kernel⟩
/-- X right after its step, with a pulse of three ticks. -/
def longPulse : State :=
  after [.reqMoveQueueAdd addX, .reqStartMove start22, .tickHf] (.resetWith { small with pulseHigh := 3 })
theorem good_longPulse : longPulse.Good := checkGood_ok (by decide +kernel)
theorem witness_PulseWidth :
    (pulsing.Good ∧ (pulsing.ax.get .x).highHold.toNat = 1 ∧ (ticksHf 1 pulsing).fsm = .running) ∧
      longPulse.Good ∧ (longPulse.ax.get .x).highHold.toNat = 3 ∧ (ticksHf 3 longPulse).fsm = .running :=
  ⟨⟨good_pulsing, by decide +kernel, by decide +kernel⟩, good_longPulse, by decide +kernel, by decide +kernel⟩
theorem witness_MotionCompletes :
    running.Good ∧ running.fsm = .running ∧ running.q.count = 0#16 ∧
      ∀ i, (running.ax.get i).emitted.toNat < (running.ax.get i).total.toNat → 1 ≤ (running.ax.get i).incr.toNat :=
  ⟨good_running, by decide +kernel, by decide +kernel, fun i => by cases i <;> decide +kernel⟩

theorem witness_LfTickSamples : idle.fsm ≠ .running := by decide +kernel
theorem witness_LfTickErrors : running.fsm = .running ∧ (running.ax.get .y).total = 0#32 := by decide +kernel
/-- A candidate; work only in the queue; none. -/
def restOnly : State := { lastPulse with q := full.q }
theorem witness_MasterAxisRule :
    (running.fsm = .running ∧ Outstanding (running.ax.get .x)) ∧
      (restOnly.fsm = .running ∧ (¬ ∃ j, Outstanding (restOnly.ax.get j)) ∧ 0 < workLeft restOnly .x) ∧
      lastPulse.fsm = .running ∧ (¬ ∃ j, Outstanding (lastPulse.ax.get j)) ∧ ¬ ∃ j, 0 < workLeft lastPulse j := by
  refine ⟨⟨by decide +kernel, ?_⟩, ⟨by decide +kernel, ?_, by decide +kernel⟩, by decide +kernel, ?_, ?_⟩
  · unfold Outstanding; decide +kernel
  · rintro ⟨j, hj⟩; revert hj; unfold Outstanding; cases j <;> decide +kernel
  · rintro ⟨j, hj⟩; revert hj; unfold Outstanding; cases j <;> decide +kernel
  · rintro ⟨j, hj⟩; revert hj; cases j <;> decide +kernel

/-- A ramp of 50 a tick (95_test_vectors.md 1.6) with a closed loop on X. -/
def rampConfig : Config := { small with accel := 50000, closedLoop := ⟨true, false, false⟩ }
def ramping : State := after [.reqMoveQueueAdd addX, .reqStartMove start22] (.resetWith rampConfig)
theorem good_ramping : ramping.Good := checkGood_ok (by decide +kernel)
/-- The output is clamped and not (R289), and there is no ramp. -/
theorem witness_PidAndThrottleRule :
    (running.cfg.wf = true ∧ running.fsm = .running ∧ (running.ax.get .x).total ≠ 0#32) ∧ running.cfg.accel = 0 ∧
      pidClamped small (fresh 10 256#16 0#16) 10 = pidU small (fresh 10 256#16 0#16) 10 ∧
      pidClamped small (fresh 10000 65535#16 0#16) 10000 ≠ pidU small (fresh 10000 65535#16 0#16) 10000 := by
  decide +kernel
theorem witness_IncrementRule :
    running.cfg.wf = true ∧ running.fsm = .running ∧ (running.ax.get .x).total ≠ 0#32 := by decide +kernel
/-- X at 500 with three steps to go brakes in the next LF tick: `brake(500) = 2`, and one of the steps is made. -/
def braking : State :=
  after [.tickHf, .tickLf (.same 0#32)] { ramping with
    ax := ramping.ax.set .x { ramping.ax.x with vActual := 500#32, incr := 65536#32 } }
theorem good_braking : braking.Good := checkGood_ok (by decide +kernel)
theorem witness_BrakingNeverSpeedsUp :
    braking.Good ∧ braking.fsm = .running ∧ 0 < braking.cfg.accel ∧ braking.q.count = 0#16 ∧
      (braking.ax.get .x).braking = true ∧
      (execAll [.tickHf, .tickLf (.same 0#32), .tickHf] braking).isSome = true :=
  ⟨good_braking, by decide +kernel, by decide +kernel, by decide +kernel, by decide +kernel, by decide +kernel⟩

/-- `ramping` with X at the velocity `v` and the target `vt`. -/
def atSpeed (v vt : U32) : State :=
  { ramping with ax := ramping.ax.set .x { ramping.ax.x with vActual := v, vTarget := vt } }
/-- One LF tick on `s`: the latch and the velocity of X. -/
def afterLf (s : State) : Bool × Nat :=
  ((after [.tickLf (.same 0#32)] s).ax.x.braking, (after [.tickLf (.same 0#32)] s).ax.x.vActual.toNat)
/-- No ramp; then rising, braking, falling and cruising ones, none of whose sums reaches 2^32, and one that does. -/
theorem witness_RampRule :
    (running.cfg.wf = true ∧ running.fsm = .running ∧ (running.ax.get .x).total ≠ 0#32 ∧ running.cfg.accel = 0) ∧
      (ramping.cfg.wf = true ∧ ramping.fsm = .running ∧ (ramping.ax.get .x).total ≠ 0#32 ∧ 0 < ramping.cfg.accel ∧
        ramping.cfg.accel * 65536 / ramping.cfg.fLf + 65536 < 2 ^ 32) ∧
      (afterLf ramping = (false, 50) ∧ afterLf (atSpeed 1000#32 2000#32) = (true, 950) ∧
        afterLf (atSpeed 300#32 200#32) = (false, 250) ∧ afterLf (atSpeed 200#32 200#32) = (false, 200)) ∧
      { rampConfig with accel := 2 ^ 26 }.wf = true ∧ 2 ^ 32 ≤ 2 ^ 26 * 65536 / rampConfig.fLf := by
  decide +kernel

theorem witness_QueueInvariant : QueueOk full.cfg full.q ∧ step full = .next (full.ok .unit) := ⟨good_full.queue, rfl⟩
theorem witness_AxisInvariant :
    (∀ i, AxisOk pulsing.cfg (pulsing.ax.get i)) ∧ step pulsing = .next (pulsing.ok .unit) := ⟨good_pulsing.axes, rfl⟩
theorem witness_EngineInvariant : EngineOk pulsing ∧ step pulsing = .next (pulsing.ok .unit) := ⟨good_pulsing.engine, rfl⟩
theorem witness_GoodInvariant : chaining.Good ∧ step chaining = .next (chaining.ok .unit) := ⟨good_chaining, rfl⟩
/-- A held frame longer than its slot, a pending response longer than its register, an axis past its total: each breaks an
invariant, and each step faults under its own name (R75, R324). -/
def longFrame : State := { fifoFull with rf := { fifoFull.rf with slots := fifoFull.rf.slots.set 0 ⟨100#8, zeros 42⟩ } }
def longPending : State := { pending with spi := { pending.spi with pending := ⟨true, 100#8, zeros 42⟩ } }
def pastTotal : State := { running with ax := running.ax.set .x { running.ax.x with emitted := 9#32, targetSteps := 9#32 } }
def activeIdle : State := { idle with seg := { idle.seg with active := true } }
theorem test_unsound_faults :
    step longFrame = .fault .outOfBounds ∧ step longPending = .fault .outOfBounds ∧
      step pastTotal = .fault .inconsistent ∧ step activeIdle = .fault .inconsistent := ⟨rfl, rfl, rfl, rfl⟩
theorem witness_GoodStepAnswers :
    done.Good ∧ pastTotal.cfg.wf = true ∧ pastTotal.fsm.between = true ∧ ¬ pastTotal.Sound :=
  ⟨good_done, by decide +kernel, by decide +kernel, fun h => by
    have := ((sound_iff _).1 h).2.2; revert this; decide +kernel⟩
theorem witness_PowerOnIsGood : rampConfig.wf = true := by decide +kernel

/-- A change of the engine by each kind of row. -/
theorem witness_EngineTransitions :
    EngineOk idle ∧ (after [.reqMoveQueueAdd addX] idle).fsm ≠ idle.fsm ∧ EngineOk queued ∧
      (after [.reqStartMove start22] queued).fsm ≠ queued.fsm ∧ (after [.reqAutoFriction friction2A] queued).fsm ≠ queued.fsm ∧
      EngineOk lastPulse ∧ (after [.tickHf] lastPulse).fsm ≠ lastPulse.fsm ∧ (after [.estop] lastPulse).fsm ≠ lastPulse.fsm :=
  ⟨good_idle.engine, by decide +kernel, good_queued.engine, by decide +kernel, by decide +kernel, good_lastPulse.engine,
    by decide +kernel, by decide +kernel⟩
theorem witness_RegisterWriters :
    exec .setSafe0 idle = .next unsafeState ∧ unsafeState.ctl.safe ≠ idle.ctl.safe ∧
      (after [.tickLf (.same 0#32)] running).ctl.master ≠ running.ctl.master ∧
      (after [.prime 0xB1#8] pending).spi.pending ≠ pending.spi.pending ∧
      (after [.reqStartMove start22] queued).seg ≠ queued.seg ∧ (after [.reqStartMove start22] queued).q ≠ queued.q ∧
      (after [.tickHf] pulsing).pin ≠ pulsing.pin ∧ (after [.estop] pulsing).rf ≠ pulsing.rf ∧
      (after [.estop] fifoFull).cnt.respDrop ≠ fifoFull.cnt.respDrop :=
  ⟨rfl, by decide +kernel, by decide +kernel, by decide +kernel, by decide +kernel, by decide +kernel, by decide +kernel,
    by decide +kernel, by decide +kernel⟩
theorem witness_PinsFollowEvents : Instr.estop ≠ .reset ∧ ∃ t, exec .estop pulsing = .next t := ⟨by decide, _, rfl⟩
theorem witness_ErrorsThatReachThePort :
    (after [.fifoPop 2#8] fifoFull).result = .err .rangeError ∧
      (after [.fifoPushExt [1#8]] fifoFull).result = .err .allocationError ∧
      (after [.fifoPushExt []] fifoFull).result = .err .invalidArgument := by decide +kernel
/-- A response frame that does not decode is absorbed (R322). -/
theorem test_response_absorbed :
    (after [.respMoveEnd (moveEnd11.set 4 0#8)] fifoFull).result = .ok .unit ∧
      (after [.respMoveEnd (moveEnd11.set 4 0#8)] fifoFull).cnt.frameDrop = fifoFull.cnt.frameDrop + 1#32 := by
  decide +kernel

end Sys2Proof.Tests
end

/-! The buffer primitives are big-endian (00_scope.md R12): `memRead` as a weighted sum, and the obligation O10
from it and the laws of `memRead` and `memWrite`. -/

namespace Sys2Proof.Machine

/-- The model weighs a byte by a power of 256, the obligation by a power of 2. -/
theorem two_pow_eight_mul (n : Nat) : 2 ^ (8 * n) = 256 ^ n := pow_mul 2 8 n

/-- Appending one byte to a field multiplies the weight of every byte before it by 256. -/
theorem memRead_eq_sum (f : List Byte) (off n : Nat) :
    memRead f off n = ((List.range n).map fun k => (byteAt f (off + k)).toNat * 256 ^ (n - 1 - k)).sum := by
  induction n with
  | zero => rfl
  | succ n ih =>
    have weight : ∀ k ∈ List.range n, (byteAt f (off + k)).toNat * 256 ^ (n + 1 - 1 - k) =
        (byteAt f (off + k)).toNat * 256 ^ (n - 1 - k) * 256 := by
      intro k hk
      have hk : k < n := List.mem_range.1 hk
      rw [mul_assoc, ← pow_succ, show n + 1 - 1 - k = n - 1 - k + 1 by omega]
    rw [memRead_succ, ih, List.range_succ, List.map_append, List.sum_append, List.map_congr_left weight,
      List.sum_map_mul_right]
    simp

/-- Byte `k` of a written field is digit `n - 1 - k` of the value in base 256. -/
theorem byteAt_memWrite_field {f : List Byte} {off n k : Nat} (h : off + n ≤ f.length) (v : Nat) (hk : k < n) :
    (byteAt (memWrite f off n v) (off + k)).toNat = v / 256 ^ (n - 1 - k) % 256 := by
  rw [byteAt_memWrite h, if_pos (by omega), Nat.add_sub_cancel_left, BitVec.toNat_ofNat]

theorem byteAt_memWrite_outside {f : List Byte} {off n k : Nat} (h : off + n ≤ f.length) (v : Nat)
    (hk : k < off ∨ off + n ≤ k) : byteAt (memWrite f off n v) k = byteAt f k := by
  rw [byteAt_memWrite h, if_neg (by omega)]

theorem readField_signed (f : List Byte) {d : Field} (hs : d.signed = true) (hw : d.w ≠ 1) :
    readField f d = (BitVec.ofNat (8 * d.w) (memRead f d.off d.w)).toInt := by
  simp only [readField, if_neg hw, if_pos hs]

/-- Settles O10, from the sum of the bytes read, the bytes after a write, and the sign extension of `readField`. -/
theorem bigEndianBuffers : Obligations.BigEndianBuffers := by
  intro f off n v
  simp only [two_pow_eight_mul]
  refine ⟨memRead_eq_sum f off n, fun h => ⟨?reads_back, ?stores, ?length, ?frame⟩, ?signed⟩
  case reads_back => exact memRead_memWrite h v
  case stores => exact fun _ hk => byteAt_memWrite_field h v hk
  case length => exact memWrite_length f off n v
  case frame => exact fun _ hk => byteAt_memWrite_outside h v hk
  case signed => exact fun _ hs hw => readField_signed f hs hw

end Sys2Proof.Machine

/-! A step keeps the move queue and the axes in their ranges (10_state.md R26 to R34): the obligations O51 and O52, by
`Closed`, which reduces a step to the operations that write the configuration, the engine, the queue, the axes or the
pins. -/

namespace Sys2Proof.Machine

section

variable {c : Config} {s t : State} {a b : AxisState}

/-! ### The part of the state the motion invariants speak of -/

/-- `t` has the configuration and the motion registers of `s`. -/
structure SameMotion (s t : State) : Prop where
  cfg : t.cfg = s.cfg
  fsm : t.fsm = s.fsm
  seg : t.seg = s.seg
  q : t.q = s.q
  ax : t.ax = s.ax
  pin : t.pin = s.pin

/-- A push writes the FIFO alone (R201). -/
theorem SameMotion.push {f : Option (List Byte)} (h : s.push f = .ok t) : SameMotion s t := by
  rw [push_ok_eq h]; constructor <;> rfl

theorem SameMotion.pop {n : Nat} {p : Popped} (h : s.pop n = .ok p) : SameMotion s p.state := by
  rcases pop_state h with ⟨-, e⟩ | ⟨-, e⟩ <;> rw [e] <;> constructor <;> rfl

theorem SameMotion.load (h : execLoadPending s = .next t) : SameMotion s t := by
  rw [load_eq h]; constructor <;> rfl

theorem SameMotion.prime {st : Byte} (h : execPrime st s = .next t) : SameMotion s t := by
  rw [prime_eq h]; constructor <;> rfl

/-- A predicate of the motion registers is closed when the operations that write those registers keep it. -/
theorem Closed.of_motion {P : State → Prop} (congr : ∀ s t, SameMotion s t → P s → P t)
    (enqueue : ∀ g s t, P s → s.enqueue g = .ok t → P t) (start : ∀ s, P s → P (startMove s))
    (stop : ∀ a b s, P s → P (moveEnd a b s)) (friction : ∀ e s, P s → P (setFriction e s))
    (hf : ∀ s, P s → P (tickHf s)) (lf : ∀ r s, P s → P (tickLf r s)) (reset : ∀ s, P s → P (resetState s)) :
    Closed P where
  ok _ s := congr s _ (by constructor <;> rfl)
  raise _ s := congr s _ (by constructor <;> rfl)
  counters _ s := congr s _ (by constructor <;> rfl)
  router _ s := congr s _ (by constructor <;> rfl)
  emit _ _ s := congr s _ (by constructor <;> rfl)
  respond _ _ s := congr s _ (by constructor <;> simp)
  push _ s t hs h := congr s t (.push h) hs
  pop _ s _ hs h := congr s _ (.pop h) hs
  load s t hs h := congr s t (.load h) hs
  prime _ s t hs h := congr s t (.prime h) hs
  origins _ _ s := congr s _ (by constructor <;> simp)
  microsteps _ s hs _ := congr s _ (by constructor <;> rfl) hs
  safe _ s := congr s _ (by constructor <;> rfl)
  advance s := congr s _ (by constructor <;> rfl)
  enqueue := enqueue
  start := start
  stop := stop
  friction := friction
  hf := hf
  lf := lf
  reset := reset

/-! ### The move queue (R26, R27) -/

/-- The queue invariant under an accepted configuration, which bounds the capacity. -/
structure QueueInv (s : State) : Prop where
  cfg : s.cfg.wf = true
  queue : QueueOk s.cfg s.q

/-- It reads only the configuration and the queue. -/
theorem QueueInv.congr (h : QueueInv s) (hc : t.cfg = s.cfg) (hq : t.q = s.q) : QueueInv t :=
  ⟨hc ▸ h.cfg, by rw [hc, hq]; exact h.queue⟩

theorem QueueInv.dequeue (h : QueueInv s) (hne : s.q.count ≠ 0#16) : QueueInv s.dequeue :=
  ⟨h.cfg, (h.queue.dequeued h.cfg hne).2⟩

theorem QueueInv.clearQueue (h : QueueInv s) : QueueInv s.clearQueue := ⟨h.cfg, h.queue.cleared h.cfg⟩

theorem QueueInv.beginNext (h : QueueInv s) (hne : s.q.count ≠ 0#16) (chained : Bool) :
    QueueInv (beginNext chained s) :=
  (h.dequeue hne).congr (by simp) (by simp)

theorem QueueInv.enqueue {g : MoveSegment} (h : QueueInv s) (he : s.enqueue g = .ok t) : QueueInv t := by
  rcases enqueue_cases g s with ⟨-, e⟩ | ⟨hfull, e⟩ <;> rw [e] at he <;> cases he
  have room : s.q.count.toNat < s.cfg.qcap := lt_of_le_of_ne h.queue.count hfull
  exact ⟨h.cfg, (h.queue.enqueued h.cfg room g).2⟩

theorem QueueInv.startMove (h : QueueInv s) : QueueInv (startMove s) := by
  rcases startMove_cases s with ⟨-, e⟩ | ⟨-, hne, e⟩ | ⟨-, -, e⟩ <;> rw [e]
  · exact h.congr rfl rfl
  · exact (h.beginNext hne false).congr rfl rfl
  · exact h

/-- What arming or disarming the friction model does to the queue (R188): arming clears it. -/
theorem setFriction_q (e : Byte) (s : State) :
    (setFriction e s).q = if e ≠ 0#8 then s.clearQueue.q else s.q := by
  unfold setFriction; dsimp only; split <;> [(split <;> rfl); rfl]

theorem QueueInv.setFriction (h : QueueInv s) (e : Byte) : QueueInv (setFriction e s) := by
  by_cases he : e ≠ 0#8
  · exact h.clearQueue.congr (by simp) (by rw [setFriction_q, if_pos he])
  · exact h.congr (by simp) (by rw [setFriction_q, if_neg he])

theorem QueueInv.completionCheck (h : QueueInv s) : QueueInv (completionCheck s) := by
  rcases completionCheck_cases s with ⟨-, hne, e⟩ | ⟨-, -, -, e⟩ | ⟨e, -⟩ <;> rw [e]
  · exact h.beginNext hne true
  · exact h.congr (by simp) (by simp)
  · exact h

theorem QueueInv.tickHf (h : QueueInv s) : QueueInv (tickHf s) := by
  rcases tickHf_cases s with ⟨-, e⟩ | ⟨-, e⟩ <;> rw [e]
  · exact h.congr (by simp [State.forAxes]) (by simp [State.forAxes])
  · exact QueueInv.completionCheck (h.congr (by simp [State.forAxes]) (by simp [State.forAxes]))

/-- An empty queue with its slots satisfies the invariant, whatever the slots hold (R350). -/
theorem QueueOk.empty (hw : c.wf = true) {slots : List MoveSegment} (hl : slots.length = c.qcap) :
    QueueOk c ⟨slots, 0#16, 0#16, 0#16, .same 0#64⟩ where
  slots := hl
  head := Config.qcap_pos hw
  count := Nat.zero_le _
  tail := (Nat.zero_mod _).symm
  qsum i := by simp [queuedSegments]

theorem QueueInv.resetState (h : QueueInv s) : QueueInv (resetState s) :=
  ⟨h.cfg, .empty h.cfg (by simp [tabulate])⟩

theorem queueInv_closed : Closed QueueInv :=
  .of_motion (congr := fun _ _ e h => h.congr e.cfg e.q)
    (enqueue := fun _ _ _ h he => h.enqueue he)
    (start := fun _ h => h.startMove)
    (stop := fun _ _ _ h => h.clearQueue.congr (by simp) (by simp))
    (friction := fun e _ h => h.setFriction e)
    (hf := fun _ h => h.tickHf)
    (lf := fun _ _ h => h.congr (by simp) (by simp))
    (reset := fun _ h => h.resetState)

/-! ### One axis (R29 to R34) -/

theorem AxisOk.zero (c : Config) : AxisOk c .zero := by
  constructor <;> simp [AxisState.zero, one]

/-- A begin leaves an axis in its ranges (R230): the velocity is the capped target, the velocity before, or 0. -/
theorem AxisOk.begun (hw : s.cfg.wf = true) (g : MoveSegment) (chained : Bool) (i : Axis)
    (h : AxisOk s.cfg (s.ax.get i)) : AxisOk s.cfg (begunAxis g chained i s) := by
  have hb := begunAxis_spec hw g chained i
  have hvt : (begunAxis g chained i s).vTarget.toNat ≤ s.cfg.vMax := hb.vTarget ▸ Nat.min_le_right _ _
  have hinteg := hb.pid.1
  constructor
  case emitted => simp [hb.emitted]
  case target => rw [hb.target, hb.emitted]
  case phase => simp [hb.phase, one]
  case incr =>
    rw [hb.incr]
    split
    · exact Nat.zero_le _
    · exact velToIncr_le hw _
  case vTarget => exact hvt
  case vActual =>
    rw [hb.vActual]
    split
    · exact hvt
    · split
      · exact h.vActual
      · exact Nat.zero_le _
  case accFrac =>
    rw [hb.accFrac]
    split
    · exact h.accFrac
    · exact Nat.two_pow_pos 16
  case integLo => simp [hinteg]
  case integHi => simp [hinteg]

/-- Phase 2 leaves an axis in its ranges (R263): it steps only while steps are left, and the phase keeps the excess over
unity. -/
theorem AxisOk.moved (hw : c.wf = true) (h : AxisOk c a) : AxisOk c (movedAxis c a) := by
  have spec := movedAxis_spec hw h ⟨false, false, false⟩
  by_cases hu : Unblocked a
  · by_cases hs : one ≤ a.phase.toNat + a.incr.toNat
    · obtain ⟨hphase, -, hemitted, htarget, rest, -⟩ := spec.step ⟨hu, hs⟩
      obtain ⟨-, left, -⟩ := hu
      have total : (movedAxis c a).total = a.total := (congrArg AxisState.total rest :)
      have others : AxisOk c { movedAxis c a with
          phase := a.phase, highHold := a.highHold, emitted := a.emitted, targetSteps := a.targetSteps } := by
        rw [rest]; exact h
      exact { others with
        emitted := by rw [hemitted, total]; exact left
        target := by
          have := a.total.isLt
          apply BitVec.eq_of_toNat_eq
          rw [htarget, h.target, hemitted, BitVec.toNat_add]
          exact Nat.mod_eq_of_lt (by simp; omega)
        phase := by have := h.phase; have := h.incr; omega }
    · obtain ⟨hphase, rest, -⟩ := spec.noStep hu (by omega)
      have others : AxisOk c { movedAxis c a with phase := a.phase } := by rw [rest]; exact h
      exact { others with phase := by omega }
  · rw [(spec.blocked hu).1]; exact h

/-! ### The control step of one axis (R287 to R293) -/

/-- A value cut to 32 bits does not grow. -/
theorem toNat_ofNat_le {n m : Nat} (h : n ≤ m) : (BitVec.ofNat 32 n).toNat ≤ m :=
  (BitVec.toNat_ofNat n 32).trans_le ((Nat.mod_le _ _).trans h)

theorem toInt_bounds (v : U32) : -2147483648 ≤ v.toInt ∧ v.toInt ≤ 2147483647 := by
  have lo := BitVec.le_toInt v
  have hi := BitVec.toInt_lt (x := v)
  omega

/-- An integral clamped to `±k` stays there in its i32: a `k` beyond the i32 range bounds every i32 (R34). -/
theorem toInt_clamp_bounds (x : Int) (k : Nat) :
    -(k : Int) ≤ (BitVec.ofInt 32 (clampInt x (-k) k)).toInt ∧ (BitVec.ofInt 32 (clampInt x (-k) k)).toInt ≤ k := by
  have clamped : -(k : Int) ≤ clampInt x (-k) k ∧ clampInt x (-k) k ≤ k := by unfold clampInt; omega
  by_cases hk : k ≤ 2147483647
  · rw [ofInt_toInt_of_bounds (by omega) (by omega)]; exact clamped
  · obtain ⟨lo, hi⟩ := toInt_bounds (BitVec.ofInt 32 (clampInt x (-k) k))
    exact ⟨by omega, by omega⟩

/-- The control velocity is clamped to V_MAX (R288). -/
theorem controlVelocity_le (c : Config) (throttled : Bool) (a : AxisState) : controlVelocity c throttled a ≤ c.vMax := by
  unfold controlVelocity clampInt
  dsimp only
  omega

theorem AxisOk.pidUpdate (h : AxisOk c a) : AxisOk c (pidUpdate c a) := by
  have bounds := toInt_clamp_bounds (a.integ.toInt + deadbanded c a) c.iClamp
  exact { h with
    integLo := by
      show _ ≤ (if _ then _ else _ : U32).toInt
      split
      · exact bounds.1
      · exact h.integLo
    integHi := by
      show (if _ then _ else _ : U32).toInt ≤ _
      split
      · exact bounds.2
      · exact h.integHi }

/-- The ramp moves the velocity towards a target within V_MAX, or down (R290, R291). -/
theorem AxisOk.ramp (h : AxisOk c a) {tv : Nat} (htv : tv ≤ c.vMax) (dec : Bool) : AxisOk c (ramp c tv dec a) := by
  have hv := h.vActual
  unfold Machine.ramp
  split
  · exact { h with vActual := toNat_ofNat_le htv }
  · exact { h with
      vActual := toNat_ofNat_le (by split_ifs <;> omega)
      accFrac := by simp; omega }

theorem AxisOk.controlAxis (hw : c.wf = true) (h : AxisOk c a) (friction throttled dec : Bool) :
    AxisOk c (controlAxis c friction throttled dec a) :=
  { h.pidUpdate.ramp (controlVelocity_le c throttled a) dec with
    incr := toNat_ofNat_le (velToIncr_le hw _) }

/-! ### The axes (R29 to R34) -/

/-- The axis invariants under an accepted configuration, which bounds the increment. -/
structure AxesInv (s : State) : Prop where
  cfg : s.cfg.wf = true
  axes : ∀ i, AxisOk s.cfg (s.ax.get i)

/-- It reads only the configuration and the axes. -/
theorem AxesInv.congr (h : AxesInv s) (hc : t.cfg = s.cfg) (ha : t.ax = s.ax) : AxesInv t :=
  ⟨hc ▸ h.cfg, by rw [hc, ha]; exact h.axes⟩

/-- An operation that writes each axis keeps the invariants when it does on one axis. -/
theorem AxesInv.of_axes (h : AxesInv s) (hc : t.cfg = s.cfg) (ha : ∀ i, AxisOk s.cfg (t.ax.get i)) : AxesInv t :=
  ⟨hc ▸ h.cfg, fun i => hc ▸ ha i⟩

/-- A stop leaves every axis at rest (R231). -/
theorem AxesInv.stopped (h : AxesInv s) (hc : t.cfg = s.cfg) (ha : t.ax = .same .zero) : AxesInv t :=
  h.of_axes hc fun i => by rw [ha, PerAxis.get_same]; exact .zero _

/-- An enqueue clears braking latches (R220), which have no range. -/
theorem AxesInv.enqueue {g : MoveSegment} (h : AxesInv s) (he : s.enqueue g = .ok t) : AxesInv t := by
  rcases enqueue_cases g s with ⟨-, e⟩ | ⟨-, e⟩ <;> rw [e] at he <;> cases he
  refine h.of_axes rfl fun i => ?_
  simp only [State.setFsm_ax, State.setAx_ax, PerAxis.get_of]
  split
  · exact { h.axes i with }
  · exact h.axes i

theorem AxesInv.beginNext (h : AxesInv s) (chained : Bool) : AxesInv (beginNext chained s) :=
  h.of_axes (by simp) fun i => by rw [beginNext_ax]; exact .begun h.cfg _ chained i (h.axes i)

theorem AxesInv.startMove (h : AxesInv s) : AxesInv (startMove s) := by
  rcases startMove_cases s with ⟨-, e⟩ | ⟨-, -, e⟩ | ⟨-, -, e⟩ <;> rw [e]
  · exact h.congr rfl rfl
  · exact (h.beginNext false).congr rfl rfl
  · exact h

theorem AxesInv.closePulses (h : AxesInv s) : AxesInv (s.forAxes closePulse) :=
  h.of_axes (by simp [State.forAxes]) fun i => by rw [closed_ax]; exact closeHolds_ok (h.axes i)

theorem AxesInv.accumulates (h : AxesInv s) : AxesInv (s.forAxes accumulate) :=
  h.of_axes (by simp [State.forAxes]) fun i => by rw [moved_ax]; exact (h.axes i).moved h.cfg

theorem AxesInv.completionCheck (h : AxesInv s) : AxesInv (completionCheck s) := by
  rcases completionCheck_cases s with ⟨-, -, e⟩ | ⟨-, -, -, e⟩ | ⟨e, -⟩ <;> rw [e]
  · exact h.beginNext true
  · exact h.stopped (by simp) (by simp)
  · exact h

theorem AxesInv.tickHf (h : AxesInv s) : AxesInv (tickHf s) := by
  rcases tickHf_cases s with ⟨-, e⟩ | ⟨-, e⟩ <;> rw [e]
  · exact h.closePulses
  · exact h.closePulses.accumulates.completionCheck

theorem AxesInv.tickLf (h : AxesInv s) (raw : PerAxis U32) : AxesInv (tickLf raw s) := by
  rcases tickLf_cases raw s with ⟨-, e, -⟩ | ⟨-, -, e⟩
  · exact h.congr (by simp) e
  · refine h.of_axes (by simp) fun i => ?_
    have erred : AxisOk s.cfg ((erredState raw s).ax.get i) := by rw [erredState_ax]; exact { h.axes i with }
    rw [e, controlledAxis, (erredState_frame raw s).1]
    dsimp only
    split
    · exact erred
    · exact erred.controlAxis h.cfg _ _ _

theorem axesInv_closed : Closed AxesInv :=
  .of_motion (congr := fun _ _ e h => h.congr e.cfg e.ax)
    (enqueue := fun _ _ _ h he => h.enqueue he)
    (start := fun _ h => h.startMove)
    (stop := fun _ _ _ h => h.stopped (by simp) (by simp))
    (friction := fun _ _ h => h.congr (by simp) (by simp))
    (hf := fun _ h => h.tickHf)
    (lf := fun raw _ h => h.tickLf raw)
    (reset := fun _ h => h.stopped rfl rfl)

end

/-! ### The obligations -/

/-- Settles O51, by `Closed`: each operation that writes the queue appends, removes or clears segments and their sums. -/
theorem queueInvariant : Obligations.QueueInvariant := by
  intro s t h hs
  obtain ⟨hw, -, -⟩ := step_next hs
  exact (queueInv_closed.step ⟨hw, h⟩ hs).queue

/-- Settles O52, by `Closed`: each operation that writes an axis begins, stops, pulses or controls it within its ranges. -/
theorem axisInvariant : Obligations.AxisInvariant := by
  intro s t h hs
  obtain ⟨hw, -, -⟩ := step_next hs
  exact (axesInv_closed.step ⟨hw, h⟩ hs).axes

end Sys2Proof.Machine

/-! Which command words run and which are refused (30_encoding.md R90 to R92), and the operations that only answer (R93,
R204, R209): the obligations O5 and O25. O5 is two facts that meet in `Spells`: a step of a sound state answers exactly when
its item spells an operation, and a command word spells one exactly when R92 does not list it. -/

namespace Sys2Proof.Machine

section

variable {c : Config} {p : PortWord}

/-! ### What runs -/

/-- The rows of the table that are operations: all but the two reserved ones (R92). -/
def IsOperation (i : Instr) : Prop := (∀ rest, i ≠ .reservedD rest) ∧ ∀ rest, i ≠ .reservedE rest

theorem not_isOperation_reservedD (rest : BitVec 12) : ¬ IsOperation (.reservedD rest) := fun h => h.1 rest rfl

theorem not_isOperation_reservedE (rest : BitVec 12) : ¬ IsOperation (.reservedE rest) := fun h => h.2 rest rfl

theorem not_isOperation_iff (i : Instr) :
    ¬ IsOperation i ↔ (∃ rest, i = .reservedD rest) ∨ ∃ rest, i = .reservedE rest := by
  simp only [IsOperation, not_and_or, not_forall, not_not]

/-- Every operation runs, in any state: no handler stops, and an error is a result (R320). -/
theorem exec_of_isOperation {i : Instr} (h : IsOperation i) (s : State) : ∃ t, exec i s = .next t := by
  cases i
  case fifoPop n => simp only [exec, execFifoPop]; split <;> exact ⟨_, rfl⟩
  case fifoPushExt f => simp only [exec, execFifoPushExt]; split <;> exact ⟨_, rfl⟩
  case loadPending =>
    simp only [exec, execLoadPending]
    split
    · split <;> exact ⟨_, rfl⟩
    · exact ⟨_, rfl⟩
  case reservedD rest => exact absurd h (not_isOperation_reservedD rest)
  case reservedE rest => exact absurd h (not_isOperation_reservedE rest)
  all_goals exact ⟨_, rfl⟩

/-- A reserved row stops under its name (R92). -/
theorem exec_of_not_isOperation {i : Instr} (h : ¬ IsOperation i) (s : State) : ∃ r, exec i s = .refused r := by
  rcases (not_isOperation_iff i).1 h with ⟨rest, rfl⟩ | ⟨rest, rfl⟩ <;> exact ⟨_, rfl⟩

/-- What the decoder read is an operation. -/
def Spells : Except DecodeError Instr → Prop
  | .ok i => IsOperation i
  | .error _ => False

@[simp] theorem spells_ok (i : Instr) : Spells (.ok i) ↔ IsOperation i := Iff.rfl

@[simp] theorem not_spells_error (e : DecodeError) : ¬ Spells (.error e) := id

/-- A step of a sound state is the decoder's answer, run. -/
theorem step_of_sound {s : State} (hw : s.cfg.wf = true) (hs : s.Sound) :
    (∀ e, decode s.cfg s.nextItem = .error e → step s = .refused (.illegalItem e)) ∧
      ∀ i, decode s.cfg s.nextItem = .ok i → step s = exec i s.advance := by
  have hb := ((sound_iff s).1 hs).1
  rcases step_cases s with ⟨-, -, e⟩ | ⟨h, -⟩ | ⟨-, h, -⟩ | ⟨-, -, h, -⟩
  · exact ⟨fun _ hd => by rw [e, hd], fun _ hd => by rw [e, hd]⟩
  · exact absurd hw (by simp [h])
  · exact absurd hb (by simp [h])
  · exact absurd hs h

theorem step_next_of_spells {s : State} (hw : s.cfg.wf = true) (hs : s.Sound)
    (h : Spells (decode s.cfg s.nextItem)) : ∃ t, step s = .next t := by
  cases hd : decode s.cfg s.nextItem with rw [hd] at h
  | error e => exact absurd h (not_spells_error e)
  | ok i => rw [(step_of_sound hw hs).2 i hd]; exact exec_of_isOperation h _

theorem step_refused_of_not_spells {s : State} (hw : s.cfg.wf = true) (hs : s.Sound)
    (h : ¬ Spells (decode s.cfg s.nextItem)) : ∃ r, step s = .refused r := by
  cases hd : decode s.cfg s.nextItem with rw [hd] at h
  | error e => exact ⟨_, (step_of_sound hw hs).1 e hd⟩
  | ok i => rw [(step_of_sound hw hs).2 i hd]; exact exec_of_not_isOperation h _

/-! ### The command words that spell an operation (R91, R92) -/

/-- The operations whose DATA column is 0 (R91). -/
def zeroDataOps : List (BitVec 4) := [0x0#4, 0x2#4, 0x3#4, 0x4#4, 0x5#4, 0x7#4, 0xA#4, 0xC#4, 0xF#4]

/-- The operations that take any DATA byte (R91). -/
def anyDataOps : List (BitVec 4) := [0x1#4, 0x6#4, 0x8#4, 0x9#4]

/-- The table of R91 by its DATA column: the two reserved rows, the zero rows, the free rows and SET_SAFE. -/
theorem op_cases (op : BitVec 4) :
    (op = 0xD#4 ∨ op = 0xE#4) ∨ op ∈ zeroDataOps ∨ op ∈ anyDataOps ∨ op = 0xB#4 := by
  revert op; decide

theorem not_spells_reserved (h : opOf p.word = 0xD#4 ∨ opOf p.word = 0xE#4) : ¬ Spells (decodeCommand c p) := by
  rcases h with h | h
  · simp [decodeCommand, h, not_isOperation_reservedD]
  · simp [decodeCommand, h, not_isOperation_reservedE]

theorem not_spells_argNonzero (h : argOf p.word ≠ 0#4) : ¬ Spells (decodeCommand c p) := by
  by_cases hr : opOf p.word = 0xD#4 ∨ opOf p.word = 0xE#4
  · exact not_spells_reserved hr
  · obtain ⟨hD, hE⟩ := not_or.1 hr
    simp [decodeCommand, hD, hE, h]

/-- The side bus is read only by the two rows that have one (R90). -/
theorem spells_zeroData_iff (hbuf : p.rxbuf.length = c.xferLen) (hframe : p.frame.length ≤ 255)
    (harg : argOf p.word = 0#4) (hop : opOf p.word ∈ zeroDataOps) :
    Spells (decodeCommand c p) ↔ dataOf p.word = 0#8 := by
  simp only [zeroDataOps, List.mem_cons, List.not_mem_nil, or_false] at hop
  by_cases hd : dataOf p.word = 0#8 <;> rcases hop with h | h | h | h | h | h | h | h | h <;>
    simp [decodeCommand, noData, IsOperation, h, harg, hd, hbuf, hframe]

theorem spells_anyData (harg : argOf p.word = 0#4) (hop : opOf p.word ∈ anyDataOps) : Spells (decodeCommand c p) := by
  simp only [anyDataOps, List.mem_cons, List.not_mem_nil, or_false] at hop
  rcases hop with h | h | h | h <;> simp [decodeCommand, IsOperation, h, harg]

theorem spells_setSafe_iff (harg : argOf p.word = 0#4) (hop : opOf p.word = 0xB#4) :
    Spells (decodeCommand c p) ↔ dataOf p.word = 0#8 ∨ dataOf p.word = 1#8 := by
  by_cases h0 : dataOf p.word = 0#8
  · simp [decodeCommand, IsOperation, hop, harg, h0]
  · by_cases h1 : dataOf p.word = 1#8 <;> simp [decodeCommand, IsOperation, hop, harg, h0, h1]

/-- With buses of their lengths, R92's list is exactly the words that do not decode to an operation. -/
theorem spells_decodeCommand_iff (hbuf : p.rxbuf.length = c.xferLen) (hframe : p.frame.length ≤ 255) :
    Spells (decodeCommand c p) ↔ ¬ illegalWord p.word := by
  by_cases harg : argOf p.word = 0#4
  case neg => exact iff_of_false (not_spells_argNonzero harg) (by simp [illegalWord, harg])
  rcases op_cases (opOf p.word) with h | h | h | h
  · exact iff_of_false (not_spells_reserved h) (by rcases h with h | h <;> simp [illegalWord, h])
  · rw [spells_zeroData_iff hbuf hframe harg h]
    have others : ∀ op ∈ zeroDataOps, op ≠ 0xD#4 ∧ op ≠ 0xE#4 ∧ op ≠ 0xB#4 := by decide
    obtain ⟨hD, hE, hB⟩ := others _ h
    rw [zeroDataOps] at h
    simp only [illegalWord, harg, hD, hE, hB, h]
    tauto
  · have others : ∀ op ∈ anyDataOps, op ≠ 0xD#4 ∧ op ≠ 0xE#4 ∧ op ≠ 0xB#4 ∧ op ∉ zeroDataOps := by decide
    obtain ⟨hD, hE, hB, hz⟩ := others _ h
    rw [zeroDataOps] at hz
    exact iff_of_true (spells_anyData harg h) (by simp only [illegalWord, harg, hD, hE, hB, hz]; tauto)
  · rw [spells_setSafe_iff harg h]
    simp [illegalWord, harg, h, or_iff_not_imp_left]

end

/-! ### Answers -/

theorem exec_statusSelect (n : Byte) (s : State) :
    exec (.statusSelect n) s = .next (s.ok (.status (statusSelect s.cfg n.toNat))) := rfl

theorem statusSelect_of_le {c : Config} {n : Nat} (h : c.rxqCap ≤ n) : statusSelect c n = c.busy := if_pos h

theorem statusSelect_of_lt {c : Config} {n : Nat} (h : n < c.rxqCap) : statusSelect c n = c.ready :=
  if_neg (Nat.not_le.2 h)

/-! ### The obligations -/

/-- Settles O5: a command word spells an operation exactly when R92 does not list it, and what spells one runs. -/
theorem illegalWordsRefused : Obligations.IllegalWordsRefused := by
  intro s p rest hw hs hport hbuf hframe
  have item : s.nextItem = .command p := by rw [State.nextItem, hport]; rfl
  have legal : Spells (decode s.cfg s.nextItem) ↔ ¬ illegalWord p.word := by
    rw [item]; exact spells_decodeCommand_iff hbuf hframe
  exact ⟨fun h => step_refused_of_not_spells hw hs fun hsp => legal.1 hsp h,
    fun h => step_next_of_spells hw hs (legal.2 h)⟩

/-- Settles O25: the three operations write the result alone; the status byte turns at RXQ_CAP. -/
theorem readingOperations : Obligations.ReadingOperations := by
  intro s n
  refine ⟨rfl, rfl, fun h => ?busy, fun h => ?ready⟩
  case busy => rw [exec_statusSelect, statusSelect_of_le h]; rfl
  case ready => rw [exec_statusSelect, statusSelect_of_lt h]; rfl

end Sys2Proof.Machine

/-! The codec (40_codec.md R132 to R142): what the parity disciplines write and catch, the verdict of a decoder, what an
encoder writes, and the round trip: the obligations O7, O8, O9, O11 and O12. -/

namespace Sys2Proof.Machine

section

variable {lay : Layout} {h code tail : Byte} {r : Record} {f d : List Byte} {j b k : Nat}

/-! ### The verdict of a decoder (R140) -/

/-- The buffers R140 accepts as a frame of the layout `lay` with these header, type and tail bytes. -/
def IsFrame (lay : Layout) (h code tail : Byte) (f : List Byte) : Prop :=
  f.length = lay.len ∧ byteAt f 0 = h ∧ byteAt f 1 = code ∧ byteAt f (lay.len - 1) = tail ∧
    checkParity lay.parity f = true

theorem decodeFrame_of_short (hf : f.length < lay.len) :
    decodeFrame lay h code tail (some f) = .error .invalidArgument := if_pos hf

theorem decodeFrame_of_isFrame (hf : IsFrame lay h code tail f) :
    decodeFrame lay h code tail (some f) = .ok ⟨byteAt f 2, lay.fields.map fun d => (d.name, readField f d)⟩ := by
  obtain ⟨hlen, hhdr, hcode, htail, hpar⟩ := hf
  simp [decodeFrame, hlen, hhdr, hcode, htail, hpar]

/-- Each check of R140 after the length check answers FrameError, and together they are `IsFrame`. -/
theorem decodeFrame_of_not_isFrame (hlen : lay.len ≤ f.length) (hf : ¬ IsFrame lay h code tail f) :
    decodeFrame lay h code tail (some f) = .error .frameError := by
  simp only [decodeFrame, if_neg (Nat.not_lt.2 hlen)]
  split_ifs with hlen' hhdr hcode htail hpar
  case neg => exact absurd ⟨not_not.1 hlen', not_not.1 hhdr, not_not.1 hcode, not_not.1 htail, by simpa using hpar⟩ hf
  all_goals rfl

/-! ### The round trip (R142) -/

theorem isFrame_encodeFrame (hw : lay.wf = true) : IsFrame lay h code tail (encodeFrame lay h code tail r) := by
  obtain ⟨hhdr, hcode, -, htail, hpar, -⟩ := encodeFrame_bytes hw h code tail r
  exact ⟨encodeFrame_length .., hhdr, hcode, htail, hpar⟩

/-- With distinct names, a record's value of a name is the value listed beside it. -/
theorem Record.get_of_mem (hn : (r.vals.map (·.1)).Nodup) {p : FieldName × Int} (hp : p ∈ r.vals) : r.get p.1 = p.2 := by
  have found : r.vals.find? (fun q => q.1 == p.1) = some p := by
    obtain ⟨fid, vals⟩ := r
    induction vals with
    | nil => simp at hp
    | cons q vals ih =>
      obtain ⟨hq, hn⟩ := List.nodup_cons.1 hn
      rcases List.mem_cons.1 hp with rfl | hp
      · simp
      · have apart : q.1 ≠ p.1 := fun e => hq (List.mem_map.2 ⟨p, hp, e.symm⟩)
        rw [List.find?_cons_of_neg (by simpa using apart)]
        exact ih hn hp
  rw [Record.get, found]; rfl

/-- With distinct names, a record is the values of its names, in their order. -/
theorem Record.vals_eq_map_get (hn : (r.vals.map (·.1)).Nodup) :
    r.vals = (r.vals.map (·.1)).map fun n => (n, r.get n) := by
  rw [List.map_map]
  refine (List.map_id _).symm.trans (List.map_congr_left fun p hp => ?_)
  simp [Record.get_of_mem hn hp]

/-- A record in range has the layout's fields, in the layout's order. -/
theorem RecordFits.vals_eq (hw : lay.wf = true) (hr : RecordFits lay r) :
    r.vals = lay.fields.map fun d => (d.name, r.get d.name) := by
  obtain ⟨-, -, -, -, hn, -⟩ := Layout.wf_parts hw
  rw [Record.vals_eq_map_get (hr.1 ▸ hn), hr.1, List.map_map]; rfl

theorem decodeFrame_encodeFrame (hw : lay.wf = true) (hr : RecordFits lay r) (h code tail : Byte) :
    decodeFrame lay h code tail (some (encodeFrame lay h code tail r)) = .ok r := by
  obtain ⟨-, -, hfid, -⟩ := encodeFrame_bytes hw h code tail r
  have hread : ∀ d ∈ lay.fields,
      (d.name, readField (encodeFrame lay h code tail r) d) = (d.name, r.get d.name) := fun d hd => by
    rw [readField_encode hw h code tail r hd (hr.2 d hd)]
  rw [decodeFrame_of_isFrame (isFrame_encodeFrame hw), hfid, List.map_congr_left hread, ← hr.vals_eq hw]

/-! ### What the disciplines write (R133) -/

/-- The parity lands on its own byte and no other (R133). -/
theorem byteAt_writeParity_elsewhere {par : Parity} (notStub : ∀ p, par = .stub p → k ≠ p)
    (notByteXor : ∀ p lo hi, par = .byteXor p lo hi → k ≠ p) (notBitXor : ∀ p b lo hi, par = .bitXor p b lo hi → k ≠ p) :
    byteAt (writeParity par f) k = byteAt f k := by
  cases par with
  | none => rfl
  | stub p => exact (byteAt_set ..).trans (if_neg fun e => notStub p rfl e.1)
  | byteXor p lo hi => exact (byteAt_set ..).trans (if_neg fun e => notByteXor p lo hi rfl e.1)
  | bitXor p b lo hi => exact (byteAt_set ..).trans (if_neg fun e => notBitXor p b lo hi rfl e.1)

/-- BIT_XOR writes its bit of its byte and leaves the other seven (R133). -/
theorem getLsbD_writeParity_bitXor {p lo hi : Nat} (hp : p < f.length) (hk : k < 8) (i : Nat) :
    (byteAt (writeParity (.bitXor p k lo hi) f) p).getLsbD i =
      if i = k then bitXor f p k lo hi else (byteAt f p).getLsbD i := by
  rw [writeParity, byteAt_set, if_pos ⟨rfl, hp⟩, getLsbD_withBit _ hk]

/-- The parity is the last write of an encoder, so writing it again changes nothing (R133). -/
theorem writeParity_encodeFrame (hw : lay.wf = true) (h code tail : Byte) (r : Record) :
    writeParity lay.parity (encodeFrame lay h code tail r) = encodeFrame lay h code tail r := by
  obtain ⟨-, -, -, -, -, hpar⟩ := Layout.wf_parts hw
  rw [encodeFrame_eq, writeParity_idem hpar (bareFrame_length ..)]

/-! ### One flipped bit (R134) -/

theorem byteAt_flipBit_same (hj : j < f.length) (b : Nat) : byteAt (flipBit f j b) j = byteAt f j ^^^ (1#8 <<< b) := by
  rw [flipBit, byteAt_set, if_pos ⟨rfl, hj⟩]

theorem byteAt_flipBit_of_ne (f : List Byte) (b : Nat) (hk : k ≠ j) : byteAt (flipBit f j b) k = byteAt f k := by
  rw [flipBit, byteAt_set, if_neg fun e => hk e.1]

theorem getLsbD_xor_bit (x : Byte) (hb : b < 8) (k : Nat) :
    (x ^^^ (1#8 <<< b)).getLsbD k = if k = b then !x.getLsbD k else x.getLsbD k := by
  rw [BitVec.getLsbD_xor, getLsbD_bit b k hb]
  by_cases hk : k = b <;> simp [hk]

theorem xor_bit_ne (x : Byte) (hb : b < 8) : x ^^^ (1#8 <<< b) ≠ x := fun e => by
  have flipped := getLsbD_xor_bit x hb b
  rw [e, if_pos rfl] at flipped
  simp at flipped

/-- Leaving out bit `k` and flipping another bit can be done in either order. -/
theorem withBit_xor_bit (x : Byte) (hk : k < 8) (hb : b < 8) (hbk : b ≠ k) :
    withBit (x ^^^ (1#8 <<< b)) k false = withBit x k false ^^^ (1#8 <<< b) := by
  apply BitVec.eq_of_getLsbD_eq
  intro i _
  rw [getLsbD_withBit _ hk, getLsbD_xor_bit _ hb, getLsbD_xor_bit _ hb, getLsbD_withBit _ hk]
  by_cases hi : i = k
  · simp [hi, hbk.symm]
  · simp [hi]

theorem byteXor_flipBit_inside {lo hi : Nat} (hj : j < f.length) (hlo : lo ≤ j) (hhi : j ≤ hi) :
    byteXor (flipBit f j b) lo hi = byteXor f lo hi ^^^ (1#8 <<< b) :=
  byteXor_update hlo hhi _ (byteAt_flipBit_same hj b) fun _ hk => byteAt_flipBit_of_ne f b hk

theorem byteXor_flipBit_outside {lo hi : Nat} (hj : j < lo ∨ hi < j) :
    byteXor (flipBit f j b) lo hi = byteXor f lo hi := byteXor_writeByte f hj _

/-- Flipping a bit other than the left-out one flips what its byte contributes to `bit_xor` (R131). -/
theorem bitPart_flipBit {p : Nat} (hj : j < f.length) (hk : k < 8) (hb : b < 8) (hne : ¬ (j = p ∧ b = k)) :
    bitPart (flipBit f j b) p k j = !bitPart f p k j := by
  unfold bitPart
  rw [byteAt_flipBit_same hj]
  by_cases hjp : j = p
  · rw [if_pos hjp, if_pos hjp, withBit_xor_bit _ hk hb fun e => hne ⟨hjp, e⟩, bitsXor_flip _ hb]
  · rw [if_neg hjp, if_neg hjp, bitsXor_flip _ hb]

theorem bitXor_flipBit_inside {p lo hi : Nat} (hj : j < f.length) (hk : k < 8) (hb : b < 8) (hlo : lo ≤ j) (hhi : j ≤ hi)
    (hne : ¬ (j = p ∧ b = k)) : bitXor (flipBit f j b) p k lo hi = !bitXor f p k lo hi :=
  bitXor_update hlo hhi (bitPart_flipBit hj hk hb hne) fun _ hi => byteAt_flipBit_of_ne f b hi

/-- Flipping the parity bit is writing its complement. -/
theorem flipBit_eq_withBit (f : List Byte) (j : Nat) (hb : b < 8) :
    flipBit f j b = f.set j (withBit (byteAt f j) b !(byteAt f j).getLsbD b) := by
  rw [flipBit]
  congr 1
  apply BitVec.eq_of_getLsbD_eq
  intro i _
  rw [getLsbD_xor_bit _ hb, getLsbD_withBit _ hb]
  by_cases hi : i = b
  · rw [if_pos hi, if_pos hi, hi]
  · rw [if_neg hi, if_neg hi]

theorem bitXor_flipBit_parity (f : List Byte) (p : Nat) (hk : k < 8) (lo hi : Nat) :
    bitXor (flipBit f p k) p k lo hi = bitXor f p k lo hi := by
  rw [flipBit_eq_withBit f p hk, bitXor_writeBit f p hk]

/-- A flip inside the range moves the exclusive or, a flip of the parity byte moves the other side (R134). -/
theorem checkParity_byteXor_flipBit {L : Nat} {fs : List Field} {p lo hi : Nat}
    (hw : Parity.wf L fs (.byteXor p lo hi) = true) (hj : j < f.length) (hb : b < 8)
    (hc : coveredBit (.byteXor p lo hi) j b) (ht : checkParity (.byteXor p lo hi) f = true) :
    checkParity (.byteXor p lo hi) (flipBit f j b) = false := by
  obtain ⟨-, -, -, -, -, hout, -⟩ := Parity.wf_byteXor hw
  have heq : byteAt f p = byteXor f lo hi := eq_of_beq ht
  refine beq_false_of_ne ?_
  rcases hc with ⟨hlo, hhi⟩ | rfl
  · rw [byteAt_flipBit_of_ne f b (show p ≠ j by omega), byteXor_flipBit_inside hj hlo hhi, heq]
    exact (xor_bit_ne _ hb).symm
  · rw [byteAt_flipBit_same hj, byteXor_flipBit_outside hout, heq]
    exact xor_bit_ne _ hb

/-- The parity bit itself is not in the reduction, so a covered flip moves exactly one side (R131, R134). -/
theorem checkParity_bitXor_flipBit {L : Nat} {fs : List Field} {p lo hi : Nat}
    (hw : Parity.wf L fs (.bitXor p k lo hi) = true) (hj : j < f.length) (hb : b < 8)
    (hc : coveredBit (.bitXor p k lo hi) j b) (ht : checkParity (.bitXor p k lo hi) f = true) :
    checkParity (.bitXor p k lo hi) (flipBit f j b) = false := by
  obtain ⟨-, -, hk, -⟩ := Parity.wf_bitXor hw
  have heq : (byteAt f p).getLsbD k = bitXor f p k lo hi := eq_of_beq ht
  refine beq_false_of_ne ?_
  rcases hc with ⟨hlo, hhi, hne⟩ | ⟨rfl, rfl⟩
  · have kept : (byteAt (flipBit f j b) p).getLsbD k = (byteAt f p).getLsbD k := by
      by_cases hjp : p = j
      · subst hjp
        rw [byteAt_flipBit_same hj, getLsbD_xor_bit _ hb, if_neg fun e => hne ⟨rfl, e.symm⟩]
      · rw [byteAt_flipBit_of_ne f b hjp]
    rw [kept, bitXor_flipBit_inside hj hk hb hlo hhi hne, heq]
    exact (Bool.not_ne_self _).symm
  · rw [byteAt_flipBit_same hj, getLsbD_xor_bit _ hb, if_pos rfl, bitXor_flipBit_parity f j hb, heq]
    exact Bool.not_ne_self _

/-! ### What an encoder writes (R141) -/

theorem byteAt_overlay_lt {e : List Byte} (hk : k < e.length) : byteAt (overlay e d) k = byteAt e k := by
  simp [byteAt, overlay, List.getD_eq_getElem?_getD, List.getElem?_append_left hk]

/-- Where no field and no parity is, an encoder's frame is 0 (R141). -/
theorem byteAt_encodeFrame_uncovered (hw : lay.wf = true) (h3 : 3 ≤ k) (hk : k + 1 < lay.len)
    (hfields : ∀ x ∈ lay.fields, k ∉ x.bytes) (notStub : ∀ p, lay.parity = .stub p → k ≠ p)
    (notByteXor : ∀ p lo hi, lay.parity = .byteXor p lo hi → k ≠ p)
    (notBitXor : ∀ p b lo hi, lay.parity = .bitXor p b lo hi → k ≠ p) :
    byteAt (encodeFrame lay h code tail r) k = 0x00#8 := by
  obtain ⟨-, -, -, -, -, uncovered⟩ := byteAt_bareFrame hw h code tail r
  rw [encodeFrame_eq, byteAt_writeParity_elsewhere notStub notByteXor notBitXor, uncovered k h3 hk hfields]

theorem encodeInto_of_short (hd : d.length < lay.len) :
    encodeInto lay h code tail r (some d) = .error .invalidArgument := if_pos hd

theorem encodeInto_of_fits (hd : lay.len ≤ d.length) :
    encodeInto lay h code tail r (some d) = .ok (overlay (encodeFrame lay h code tail r) d, lay.len) :=
  if_neg (Nat.not_lt.2 hd)

end

/-! ### The obligations -/

/-- Settles O7: an encoded frame passes every check of its decoder, and each field that fits reads back. -/
theorem codecRoundTrip : Obligations.CodecRoundTrip := fun _ hc =>
  ⟨fun t _ hr => decodeFrame_encodeFrame (Config.reqLayout_wf hc t) hr _ _ _,
    fun t _ hr => decodeFrame_encodeFrame (Config.respLayout_wf hc t) hr _ _ _⟩

/-- Settles O8: the check is true after the write, and an encoder's last write is its parity. -/
theorem writeParityRule : Obligations.WriteParityRule := by
  refine ⟨fun L fs par f hw hl => ⟨checkParity_writeParity hw hl, ?none, ?stub, ?byteXor, ?bitXor⟩,
    fun lay h code tail r hw => writeParity_encodeFrame hw h code tail r⟩
  case none => rintro rfl; rfl
  case stub => rintro p rfl; rfl
  case byteXor => rintro p lo hi rfl; rfl
  case bitXor =>
    rintro p k lo hi rfl
    obtain ⟨-, hp, hk, -⟩ := Parity.wf_bitXor hw
    have bits := getLsbD_writeParity_bitXor (f := f) (p := p) (lo := lo) (hi := hi) (by omega) hk
    exact ⟨fun j hj => byteAt_writeParity_elsewhere nofun nofun fun _ _ _ _ e => by cases e; exact hj,
      (bits k).trans (if_pos rfl), fun b hb => (bits b).trans (if_neg hb)⟩

/-- Settles O9: under BYTE_XOR and BIT_XOR a covered flip moves exactly one side of the check; NONE and STUB check
nothing. -/
theorem parityCatchesOneBit : Obligations.ParityCatchesOneBit := by
  rintro L fs par f j b hw rfl hj hb ht
  cases par with
  | none => exact ⟨False.elim, fun _ => rfl⟩
  | stub p => exact ⟨False.elim, fun _ => rfl⟩
  | byteXor p lo hi => exact ⟨fun hc => checkParity_byteXor_flipBit hw hj hb hc ht, by simp⟩
  | bitXor p k lo hi => exact ⟨fun hc => checkParity_bitXor_flipBit hw hj hb hc ht, by simp⟩

/-- Settles O11: the checks of R140 are the five parts of `IsFrame`. -/
theorem decoderVerdict : Obligations.DecoderVerdict := fun _ _ _ _ _ =>
  ⟨rfl, decodeFrame_of_short, fun hlen => ⟨decodeFrame_of_isFrame, decodeFrame_of_not_isFrame hlen⟩⟩

/-- Settles O12: below `L` the destination holds the frame of `encodeFrame`, from `L` on it is as it was. -/
theorem encoderWrites : Obligations.EncoderWrites := by
  intro lay h code tail r hw
  refine ⟨rfl, fun d => ⟨encodeInto_of_short, fun hd => ⟨_, encodeInto_of_fits hd, ?_⟩⟩⟩
  obtain ⟨h4, -, hwf, -⟩ := Layout.wf_parts hw
  obtain ⟨hhdr, hcode, hfid, htail, hpar, hwide, hbyte⟩ := encodeFrame_bytes hw h code tail r
  have hlen : (encodeFrame lay h code tail r).length = lay.len := encodeFrame_length ..
  have inside : ∀ k, k < lay.len → byteAt (overlay (encodeFrame lay h code tail r) d) k =
      byteAt (encodeFrame lay h code tail r) k := fun k hk => byteAt_overlay_lt (by omega)
  have within : ∀ x ∈ lay.fields, x.off + x.w + 1 ≤ lay.len := fun x hx => by
    obtain ⟨-, -, hfits, -⟩ := Field.wf_width (hwf x hx)
    exact hfits
  refine ⟨?length, fun k hk => byteAt_overlay_ge (by omega), ?hdr, ?code, ?fid, ?tail, ?parity, ?wide, ?byte, ?zero⟩
  case length => exact overlay_length (by omega)
  case hdr => rw [inside 0 (by omega), hhdr]
  case code => rw [inside 1 (by omega), hcode]
  case fid => rw [inside 2 (by omega), hfid]
  case tail => rw [inside _ (by omega), htail]
  case parity => rw [← hlen, overlay_take, hpar]
  case wide =>
    intro x hx hx1
    have := within x hx
    rw [memRead_congr x.w fun k _ => inside (x.off + k) (by omega), hwide x hx hx1]
  case byte =>
    intro x hx hx1
    have := within x hx
    rw [inside x.off (by omega), hbyte x hx hx1]
  case zero =>
    intro k h3 hk hfields notStub notByteXor notBitXor
    rw [inside k (by omega), byteAt_encodeFrame_uncovered hw h3 hk hfields notStub notByteXor notBitXor]

end Sys2Proof.Machine

/-! How a request instruction answers, the dispatcher and the router (41_router_dispatch.md R170 to R175): the obligations
O14, O17, O18 and O19. A request instruction is `onDecoded` of the record, or the drop counter. -/

namespace Sys2Proof.Machine

section

variable {s : State} {f : List Byte}

/-! ### Decoding a request (R172, R175) -/

/-- What the handler of each request type does with its frame and the record decoded from it (R181 to R191). -/
def onDecoded : ReqType → List Byte → Record → State → State
  | .moveQueueAdd, _, r, s => addSegment (segmentOf r) s
  | .moveQueueStatus, _, r, s => s.pushResp (encodeResp s.cfg .status (s.snapshot r.fid))
  | .startMove, _, r, s => respondAck .ackStartMove r.fid (startStatus s) (startMove s)
  | .moveEnd, _, r, s => moveEnd r.fid s.cfg.stStopped s
  | .setOrigin, _, r, s => respondAck .ackSetOrigin r.fid s.cfg.stOk (setOrigins (axisMaskOf r) (.of (baseOf r)) s)
  | .encoderStatus, _, r, s =>
    s.pushResp (encodeResp s.cfg .encStatus (recordOfEncStatus r.fid (.of fun i => (s.enc.get i).abs)))
  | .ledControl, f, _, s => s.emit (.extService .ledControl f)
  | .home, f, _, s => s.emit (.extService .home f)
  | .probeLevel, f, _, s => s.emit (.extService .probeLevel f)
  | .microsteps, _, r, s => setMicrosteps r.fid (r.bits 16 .microsteps) s
  | .autoFriction, _, r, s => respondAck .ackAutoFriction r.fid s.cfg.stOk (setFriction (r.bits 8 .enable) s)

theorem handle_eq_withDecoded (ty : ReqType) (f : List Byte) (s : State) :
    handle ty f s = withDecoded ty f (onDecoded ty f) s := by
  cases ty <;> rfl

theorem handle_of_decoded {ty : ReqType} {r : Record} (h : decodeReq s.cfg ty f = .ok r) :
    handle ty f s = onDecoded ty f r s := by
  rw [handle_eq_withDecoded, withDecoded, h]

theorem handle_of_rejected {ty : ReqType} {e : ErrorKind} (h : decodeReq s.cfg ty f = .error e) :
    handle ty f s = s.countFrameDrop := by
  rw [handle_eq_withDecoded, withDecoded, h]

theorem exec_ofRequest (ty : ReqType) (f : List Byte) (s : State) :
    exec (Instr.ofRequest ty f) s = .next ((handle ty f s).ok .unit) := by
  cases ty <;> rfl

/-- How a request instruction whose frame decodes answers. -/
theorem exec_of_decoded {ty : ReqType} {r : Record} (h : decodeReq s.cfg ty f = .ok r) :
    exec (Instr.ofRequest ty f) s = .next ((onDecoded ty f r s).ok .unit) := by
  rw [exec_ofRequest, handle_of_decoded h]

/-! ### Dispatch (R172, R174) -/

theorem dispatch_of_code {ty : ReqType} (hw : s.cfg.wf = true) (h : s.cfg.reqCode.get ty = byteAt f 1) :
    dispatch f s = handle ty f s := by
  rw [dispatch, ← h, requestType_code hw]

theorem requestType_of_no_code {c : Config} {code : Byte} (h : ∀ ty, c.reqCode.get ty ≠ code) :
    requestType c code = none :=
  List.find?_eq_none.2 fun ty _ => by simpa using h ty

theorem dispatch_of_no_code (h : ∀ ty, s.cfg.reqCode.get ty ≠ byteAt f 1) : dispatch f s = s.countUnhandled := by
  rw [dispatch, requestType_of_no_code h]

/-! ### The router's byte rule (R170) -/

section

variable {b : Byte}

theorem appendByte_idx (hi : s.rt.idx.toNat < s.cfg.routerCap) (hw : s.cfg.wf = true) :
    (appendByte b s).rt.idx.toNat = s.rt.idx.toNat + 1 := by
  have := Config.routerCap_bounds hw
  simp only [appendByte_rt, BitVec.toNat_add, BitVec.toNat_ofNat]
  omega

/-- With room left, an append makes the accumulation one byte longer. -/
theorem appendByte_accumulated (hr : RouterOk s.cfg s.rt) (hi : s.rt.idx.toNat < s.cfg.routerCap)
    (hw : s.cfg.wf = true) : (appendByte b s).accumulated = s.accumulated ++ [b] := by
  rw [State.accumulated, appendByte_idx hi hw, appendByte_rt]
  exact take_set_self (hr.buf ▸ hi) b

theorem accumulated_length (hr : RouterOk s.cfg s.rt) : s.accumulated.length = s.rt.idx.toNat := by
  rw [State.accumulated, List.length_take, hr.buf, Nat.min_eq_left hr.idx]

/-- After an append the first byte of the buffer is that of the accumulation. -/
theorem appendByte_first (hr : RouterOk s.cfg s.rt) (hi : s.rt.idx.toNat < s.cfg.routerCap) (hw : s.cfg.wf = true) :
    byteAt (appendByte b s).rt.buf 0 = byteAt (s.accumulated ++ [b]) 0 := by
  rw [← appendByte_accumulated hr hi hw, State.accumulated, byteAt_take (by rw [appendByte_idx hi hw]; omega)]

theorem appendByte_last (hr : RouterOk s.cfg s.rt) (hi : s.rt.idx.toNat < s.cfg.routerCap) :
    byteAt (appendByte b s).rt.buf s.rt.idx.toNat = b := by
  simp [byteAt, hr.buf, hi]

/-- The bytes before the appended one hold no tail. -/
theorem appendByte_no_tail (hr : RouterOk s.cfg s.rt) :
    ∀ k, 3 ≤ k → k < s.rt.idx.toNat → byteAt (appendByte b s).rt.buf k ≠ s.cfg.tailReq := by
  intro k h3 hk
  have := hr.tail k h3 hk
  simpa [byteAt, List.getElem?_set_ne (show s.rt.idx.toNat ≠ k by omega)] using this

theorem tailOffset_of_tail (hr : RouterOk s.cfg s.rt) (hi : s.rt.idx.toNat < s.cfg.routerCap) (hw : s.cfg.wf = true)
    (h4 : 4 ≤ (s.accumulated ++ [b]).length) (hb : b = s.cfg.tailReq) :
    tailOffset s.cfg.tailReq (appendByte b s).rt.buf (appendByte b s).rt.idx.toNat = some s.rt.idx.toNat := by
  rw [List.length_append, accumulated_length hr, List.length_singleton] at h4
  rw [appendByte_idx hi hw]
  exact tailOffset_last (appendByte_no_tail hr) (by omega) ((appendByte_last hr hi).trans hb)

theorem tailOffset_of_open (hr : RouterOk s.cfg s.rt) (hi : s.rt.idx.toNat < s.cfg.routerCap) (hw : s.cfg.wf = true)
    (h : ¬ (4 ≤ (s.accumulated ++ [b]).length ∧ b = s.cfg.tailReq)) :
    tailOffset s.cfg.tailReq (appendByte b s).rt.buf (appendByte b s).rt.idx.toNat = none := by
  rw [List.length_append, accumulated_length hr, List.length_singleton] at h
  rw [appendByte_idx hi hw]
  refine tailOffset_none fun k h3 hk => ?_
  rcases Nat.lt_succ_iff_lt_or_eq.1 hk with hlt | rfl
  · exact appendByte_no_tail hr k h3 hlt
  · rw [appendByte_last hr hi]
    exact fun hb => h ⟨by omega, hb⟩

theorem recognise_of_no_header (h : byteAt s.rt.buf 0 ≠ s.cfg.hdrReq) : recognise s = dropAccumulation s := if_pos h

theorem recognise_of_tail {k : Nat} (h : byteAt s.rt.buf 0 = s.cfg.hdrReq)
    (ht : tailOffset s.cfg.tailReq s.rt.buf s.rt.idx.toNat = some k) :
    recognise s = dispatch (s.rt.buf.take (k + 1)) (dropAccumulation s) := by
  rw [recognise, if_neg (not_not.2 h), ht]

theorem recognise_of_open (h : byteAt s.rt.buf 0 = s.cfg.hdrReq)
    (ht : tailOffset s.cfg.tailReq s.rt.buf s.rt.idx.toNat = none) : recognise s = s := by
  rw [recognise, if_neg (not_not.2 h), ht]

/-- R170 once there is room, by what the accumulation and the new byte make together. -/
theorem recognise_appendByte (hr : RouterOk s.cfg s.rt) (hi : s.rt.idx.toNat < s.cfg.routerCap) (hw : s.cfg.wf = true)
    {acc : List Byte} (hacc : acc = s.accumulated ++ [b]) :
    (byteAt acc 0 ≠ s.cfg.hdrReq → recognise (appendByte b s) = dropAccumulation (appendByte b s)) ∧
      (byteAt acc 0 = s.cfg.hdrReq → 4 ≤ acc.length → b = s.cfg.tailReq →
        recognise (appendByte b s) = dispatch acc (dropAccumulation (appendByte b s))) ∧
      (byteAt acc 0 = s.cfg.hdrReq → ¬ (4 ≤ acc.length ∧ b = s.cfg.tailReq) →
        recognise (appendByte b s) = appendByte b s) := by
  subst hacc
  rw [← appendByte_first hr hi hw]
  refine ⟨recognise_of_no_header, fun hh h4 hb => ?_, fun hh ho => ?_⟩
  · rw [recognise_of_tail hh (tailOffset_of_tail hr hi hw h4 hb), ← appendByte_idx hi hw,
      ← appendByte_accumulated hr hi hw]
    rfl
  · exact recognise_of_open hh (tailOffset_of_open hr hi hw ho)

theorem exec_rxByte (b : Byte) (s : State) :
    exec (.rxByte b) s = .next ((recognise (appendByte b (makeRoom s))).ok .unit) := rfl

end

/-! ### A transfer (R171) -/

theorem exec_rxTransfer (buf : List Byte) (s : State) :
    exec (.rxTransfer buf) s = .next ((transfer buf s).ok .unit) := rfl

theorem transfer_of_poll {buf : List Byte} (h : byteAt buf 0 = s.cfg.poll) : transfer buf s = s.countPoll := if_pos h

theorem transfer_of_not_poll {buf : List Byte} (h : byteAt buf 0 ≠ s.cfg.poll) : transfer buf s = routeBytes buf s :=
  if_neg h

end

/-! ### The obligations on the router -/

/-- Settles O14: the overflow check leaves the router invariant and room for a byte (`makeRoom_spec`), so the appended
byte is the only one that can be a tail. -/
theorem routerByteRule : Obligations.RouterByteRule := by
  intro s b hw hrt full acc base
  obtain ⟨hr, hi, hacc, hbase⟩ := makeRoom_spec hw hrt
  have hcfg := makeRoom_cfg s
  have hres := makeRoom_result s
  rw [exec_rxByte]
  generalize makeRoom s = m at *
  rw [← hcfg] at hr hi hw ⊢
  have acc_eq : acc = m.accumulated ++ [b] := by rw [hacc]
  have frame : { m with rt := s.rt, result := s.result } = base := by rw [← hres]; exact hbase
  obtain ⟨discard, complete, keep⟩ := recognise_appendByte hr hi hw acc_eq
  refine ⟨_, rfl, rfl, fun hh => ?discard, fun hh h4 hb => ?complete, fun hh ho => ?keep⟩
  case discard => rw [discard hh]; exact ⟨rfl, frame⟩
  case complete => rw [complete hh h4 hb]; exact ⟨dropAccumulation (appendByte b m), rfl, hbase, rfl⟩
  case keep => rw [keep hh ho, acc_eq]; exact ⟨appendByte_accumulated hr hi hw, frame⟩

/-- Settles O19, by the run of the bytes (`execAll_rxBytes`); a transfer of no bytes runs nothing. -/
theorem transferIsItsBytes : Obligations.TransferIsItsBytes := by
  intro s buf
  rw [exec_rxTransfer]
  refine ⟨fun hp => ?poll, fun hp => ?bytes⟩
  case poll => rw [transfer_of_poll hp]; rfl
  case bytes =>
    rw [transfer_of_not_poll hp]
    rcases eq_or_ne buf [] with rfl | hne
    · exact ⟨_, s, rfl, rfl, rfl⟩
    · exact ⟨_, _, rfl, execAll_rxBytes hne s, rfl⟩

/-- Settles O17: a frame the decoder rejects is only counted, whatever its handler does. -/
theorem malformedRequestDropped : Obligations.MalformedRequestDropped := by
  intro s ty f e h
  rw [exec_ofRequest, handle_of_rejected h]
  rfl

/-- Settles O18: type codes name one type each, so the dispatcher finds the type of the request. -/
theorem dispatchByType : Obligations.DispatchByType := by
  intro s f hw
  refine ⟨fun ty h => ?registered, fun h => ?unregistered⟩
  case registered => rw [exec_ofRequest, dispatch_of_code hw h]
  case unregistered => exact dispatch_of_no_code h

end Sys2Proof.Machine

/-! The requests of the eleven types (41_router_dispatch.md R181 to R191): the obligations O26 to O34. Most handlers end in
`push_resp`; what it answers and leaves unchanged is said once, for any state that has the FIFO and the counters of the one
before the request. -/

namespace Sys2Proof.Machine

section

variable {s u : State}

/-! ### Responses (R156, R202) -/

/-- `u` has what `push_resp` reads and writes as `s` has it. -/
structure SameFifo (s u : State) : Prop where
  cfg : u.cfg = s.cfg
  rf : u.rf = s.rf
  cnt : u.cnt = s.cnt

theorem SameFifo.refl (s : State) : SameFifo s s := ⟨rfl, rfl, rfl⟩

theorem SameFifo.responded (h : SameFifo s u) (hw : s.cfg.wf = true) (hf : FifoOk s.cfg s.rf) (ty : RespType) (r : Record) :
    Responded (encodeResp s.cfg ty r) s ((u.pushResp (encodeResp s.cfg ty r)).ok .unit) := by
  have := respond_responded (s := u) (by rwa [h.cfg]) (by rwa [h.cfg, h.rf]) ty r
  rw [h.cfg] at this
  unfold Responded at this ⊢
  rwa [h.cfg, h.rf, h.cnt] at this

/-- The answer of an ACK: the depth byte is that of the state it is sent from (R156). -/
theorem SameFifo.acked (h : SameFifo s u) (hw : s.cfg.wf = true) (hf : FifoOk s.cfg s.rf) {depth : Nat}
    (hd : u.q.count.toNat = depth) (ty : RespType) (fid status : Byte) :
    Responded (encodeResp s.cfg ty
        ⟨fid, [(.status, (status.toNat : Int)), (.qdepth, ((min depth 255 : Nat) : Int))]⟩) s
      ((respondAck ty fid status u).ok .unit) := by
  rw [← hd, ← depth_toNat, respondAck, h.cfg]
  exact h.responded hw hf ty (recordOfAck fid status u.depth)

/-- An answer changes the FIFO, the counters and the result alone. -/
theorem respondAck_frame (ty : RespType) (fid status : Byte) (s : State) :
    { (respondAck ty fid status s).ok .unit with rf := s.rf, cnt := s.cnt, result := s.result } = s := by
  unfold respondAck
  rcases pushResp_eq (encodeResp s.cfg ty (recordOfAck fid status s.depth)) s with h | h <;> rw [h] <;> rfl

/-! ### Adding a segment (R181, R220) -/

/-- The state after an enqueue that succeeds (R220). -/
def enqueuedState (g : MoveSegment) (s : State) : State :=
  ((s.setQ (enqueuedQueue s.cfg g s.q)).setAx (.of fun i =>
    if g.steps.get i ≠ 0#32 then { s.ax.get i with braking := false } else s.ax.get i)).setFsm
      (if s.fsm = .idle ∨ s.fsm = .done then Fsm.queued else s.fsm)

theorem addSegment_of_notSafe (g : MoveSegment) (h : s.ctl.safe = false) :
    addSegment g s = respondAck .ackMoveQueueAdd g.fid s.cfg.stNotSafe s := if_pos h

theorem addSegment_of_full (g : MoveSegment) (hs : s.ctl.safe = true) (hq : s.q.count.toNat = s.cfg.qcap) :
    addSegment g s = respondAck .ackMoveQueueAdd g.fid s.cfg.stQueueFull s := by
  rcases enqueue_cases g s with ⟨-, he⟩ | ⟨hne, -⟩
  · rw [addSegment, if_neg (by simp [hs]), he]
  · exact absurd hq hne

theorem addSegment_of_room (g : MoveSegment) (hs : s.ctl.safe = true) (hq : s.q.count.toNat ≠ s.cfg.qcap) :
    addSegment g s = respondAck .ackMoveQueueAdd g.fid s.cfg.stOk (enqueuedState g s) := by
  rcases enqueue_cases g s with ⟨heq, -⟩ | ⟨-, he⟩
  · exact absurd heq hq
  · rw [addSegment, if_neg (by simp [hs]), he]
    rfl

/-! ### The status snapshot (R182, R253) -/

theorem percentDone_toNat {a : AxisState} (h : a.emitted.toNat ≤ a.total.toNat) :
    (percentDone a).toNat = (if a.total.toNat = 0 then 100 else a.emitted.toNat * 100 / a.total.toNat) ∧
      (percentDone a).toNat ≤ 100 := by
  have zero_iff : a.total = 0#32 ↔ a.total.toNat = 0 := BitVec.toNat_inj.symm
  unfold percentDone
  by_cases h0 : a.total.toNat = 0
  · simp [zero_iff, h0]
  · have le : a.emitted.toNat * 100 / a.total.toNat ≤ 100 :=
      Nat.div_le_of_le_mul (Nat.mul_le_mul_right 100 h)
    rw [if_neg (by rwa [zero_iff]), if_neg h0, BitVec.toNat_ofNat, Nat.mod_eq_of_lt (by omega)]
    exact ⟨rfl, le⟩

/-! ### Starting and ending a move (R183, R184) -/

theorem startMove_of_active (h : s.seg.active = true) : startMove s = s.setFsm .running := if_pos h

theorem startMove_of_empty (h : s.seg.active = false) (hq : s.q.count = 0#16) : startMove s = s := by
  simp [startMove, h, hq]

theorem startMove_of_queued (h : s.seg.active = false) (hq : s.q.count ≠ 0#16) :
    startMove s = (beginNext false s).setFsm .running := by
  simp [startMove, h, hq]

theorem startStatus_of_active (h : s.seg.active = true) : startStatus s = s.cfg.stOk := if_pos h

theorem startStatus_of_empty (h : s.seg.active = false) (hq : s.q.count = 0#16) : startStatus s = s.cfg.stNotReady := by
  simp [startStatus, h, hq]

theorem startStatus_of_queued (h : s.seg.active = false) (hq : s.q.count ≠ 0#16) : startStatus s = s.cfg.stOk := by
  simp [startStatus, h, hq]

/-- `move_end(fid, status)` in every engine state (R236). -/
theorem moveEnd_stopped (hw : s.cfg.wf = true) (hf : FifoOk s.cfg s.rf) (fid status : Byte) :
    Stopped fid status s ((moveEnd fid status s).ok .unit) := by
  refine ⟨rfl, ?queue, ?axes, ?response, ?frame⟩
  case queue => exact (moveEnd_q ..).trans rfl
  case axes =>
    refine stopAllAxes_stopped s _ ?_ ?_ (PerAxis.ext_get fun i => ?_) ?_ <;> simp
  case response =>
    have cleared : SameFifo s (stopAllAxes (s.setFsm .stopping)).clearQueue := ⟨by simp, by simp, by simp⟩
    exact cleared.responded hw hf .moveEnd (recordOfMoveEnd fid status)
  case frame => apply State.eq_of_fields <;> simp

/-! ### Encoders (R185, R186) -/

/-- One round of the SET_ORIGIN loop (R185). -/
def setOriginAxis (m : Byte) (base : PerAxis U64) (i : Axis) (s : State) : State :=
  if maskBit m i then s.setEnc i { s.enc.get i with origin := (s.enc.get i).cum, base := base.get i } else s

theorem setOrigins_eq_forAxes (m : Byte) (base : PerAxis U64) (s : State) :
    setOrigins m base s = s.forAxes (setOriginAxis m base) := rfl

theorem setOriginAxis_enc (m : Byte) (base : PerAxis U64) (i : Axis) (s : State) :
    (setOriginAxis m base i s).enc = s.enc.set i
      (if maskBit m i then { s.enc.get i with origin := (s.enc.get i).cum, base := base.get i } else s.enc.get i) := by
  unfold setOriginAxis
  split <;> simp

theorem setOrigins_enc (m : Byte) (base : PerAxis U64) (s : State) (i : Axis) :
    (setOrigins m base s).enc.get i =
      if maskBit m i then { s.enc.get i with origin := (s.enc.get i).cum, base := base.get i } else s.enc.get i := by
  rw [setOrigins_eq_forAxes]
  cases i <;> simp [State.forAxes, setOriginAxis_enc, PerAxis.get_set]

theorem maskBit_axisMaskOf (r : Record) (i : Axis) :
    maskBit (axisMaskOf r) i = (BitVec.ofInt 8 (r.get .axisMask)).getLsbD i.index := by
  cases i <;> simp [maskBit, axisMaskOf, Record.bits, Axis.index]

/-- The absolute position is the new base once the origin is the count (R39). -/
theorem Enc.abs_of_origin (e : Enc) (b : U64) : { e with origin := e.cum, base := b }.abs = b := by
  simp [Enc.abs, Enc.rel]

/-- The absolute position cut to 32 bits (R39, R159). -/
theorem Enc.abs_cut (e : Enc) :
    (e.abs.setWidth 32).toInt = (e.base.toInt + (e.cum.toInt - e.origin.toInt)).bmod (2 ^ 32) := by
  have dvd : 2 ^ 32 ∣ 2 ^ 64 := by decide
  have cut (v : U64) : (v.setWidth 32).toInt = v.toInt.bmod (2 ^ 32) := by
    rw [BitVec.toInt_setWidth, BitVec.toInt_eq_toNat_bmod, Int.bmod_bmod_of_dvd dvd]
  rw [cut, Enc.abs, Enc.rel, BitVec.toInt_add, BitVec.toInt_sub, Int.add_bmod_bmod, Int.bmod_bmod_of_dvd dvd]

/-! ### Microsteps and friction (R187, R188) -/

theorem microstepsOk_iff (m : U16) : microstepsOk m = true ↔ 1 ≤ m.toNat ∧ m.toNat ≤ 256 := by
  rw [microstepsOk, Bool.and_eq_true, decide_eq_true_eq, decide_eq_true_eq, microstepMax]

theorem setMicrosteps_of_ok {m : U16} (h : 1 ≤ m.toNat ∧ m.toNat ≤ 256) (fid : Byte) (s : State) :
    setMicrosteps fid m s =
      respondAck .ackMicrosteps fid s.cfg.stOk (s.setCtl { s.ctl with microsteps := m }) :=
  if_pos ((microstepsOk_iff m).2 h)

theorem setMicrosteps_of_bad {m : U16} (h : ¬ (1 ≤ m.toNat ∧ m.toNat ≤ 256)) (fid : Byte) (s : State) :
    setMicrosteps fid m s = respondAck .ackMicrosteps fid s.cfg.stBadArg s :=
  if_neg (mt (microstepsOk_iff m).1 h)

/-- The state after the friction self-test is armed (R188, R222). -/
def frictionArmed (s : State) : State :=
  { s.clearQueue with
    ctl := { s.ctl with frictionEn := true }
    fsm := if s.fsm = .queued then .idle else s.fsm }

theorem setFriction_of_on {e : Byte} (h : e ≠ 0#8) (s : State) : setFriction e s = frictionArmed s := by
  rw [setFriction, if_pos h, frictionArmed]
  by_cases hs : s.fsm = .queued
  · simp only [State.clearQueue_fsm, State.setCtl_fsm, hs, if_true]; rfl
  · simp only [State.clearQueue_fsm, State.setCtl_fsm, hs, if_false]; rfl

theorem setFriction_of_off (s : State) : setFriction 0#8 s = s.setCtl { s.ctl with frictionEn := false } := rfl

end

/-! ### The obligations on the requests -/

/-- Settles O26, by the three things `addSegment` can do; an enqueue that has room is `QueueOk.enqueued`. -/
theorem moveQueueAddRule : Obligations.MoveQueueAddRule := by
  intro s f r hw hq hf hr g ack
  refine ⟨_, exec_of_decoded hr, rfl, fun hs => ?notSafe, fun hs hc => ?full, fun hs hc => ?room⟩
  case notSafe =>
    rw [show onDecoded .moveQueueAdd f r s = _ from addSegment_of_notSafe g hs]
    exact ⟨(SameFifo.refl s).acked hw hf rfl .ackMoveQueueAdd g.fid _, respondAck_frame ..⟩
  case full =>
    rw [show onDecoded .moveQueueAdd f r s = _ from addSegment_of_full g hs hc]
    exact ⟨(SameFifo.refl s).acked hw hf rfl .ackMoveQueueAdd g.fid _, respondAck_frame ..⟩
  case room =>
    have enqueued := (hq.enqueued hw hc g).1
    have same : SameFifo s (enqueuedState g s) := ⟨rfl, rfl, rfl⟩
    rw [show onDecoded .moveQueueAdd f r s = _ from addSegment_of_room g hs hc.ne]
    refine ⟨same.acked hw hf enqueued.count .ackMoveQueueAdd g.fid _, ?queue, fun i => ?axes, ?fsm, ?frame⟩
    case queue => simpa [enqueuedState] using enqueued
    case axes => simp [enqueuedState]
    case fsm => simp [enqueuedState]
    case frame =>
      exact congrArg (fun v : State => { v with q := s.q, ax := s.ax, fsm := s.fsm })
        (respondAck_frame .ackMoveQueueAdd g.fid s.cfg.stOk (enqueuedState g s))

/-- Settles O27: the snapshot is the record of the statement. -/
theorem moveQueueStatusRule : Obligations.MoveQueueStatusRule := by
  intro s f r hw hf he hr code pct err
  have percent (i : Axis) : (percentDone (s.ax.get i)).toNat = pct i := (percentDone_toNat (he i)).1
  have state : ((fsmCode s.fsm).toNat : Int) = code := by
    cases h : s.fsm <;> simp only [code, h] <;> rfl
  have snapshot : s.snapshot r.fid =
      ⟨r.fid, [(.state, code), (.qdepth, ((min s.q.count.toNat 255 : Nat) : Int)),
          (.pct .x, (pct .x : Int)), (.pct .y, (pct .y : Int)), (.pct .z, (pct .z : Int)),
          (.err .x, err .x), (.err .y, err .y), (.err .z, err .z)]⟩ := by
    rw [← state, ← depth_toNat, ← percent, ← percent, ← percent]
    rfl
  refine ⟨_, exec_of_decoded hr, rfl, ?frame, fun i => ?bound, ?response⟩
  case frame => exact congrArg (fun v : State => { v with result := s.result }) (pushResp_frame _ s)
  case bound => exact percent i ▸ (percentDone_toNat (he i)).2
  case response => exact snapshot ▸ (SameFifo.refl s).responded hw hf .status _

/-- Settles O28, by the three things `start_move()` can do (R233). -/
theorem startMoveRule : Obligations.StartMoveRule := by
  intro s f r hw hq hf hr ack
  refine ⟨_, exec_of_decoded hr, rfl, fun ha => ?active, fun ha hc => ?empty, fun ha hc => ?queued⟩
  case active =>
    have same : SameFifo s (s.setFsm .running) := ⟨rfl, rfl, rfl⟩
    rw [onDecoded, startMove_of_active ha, startStatus_of_active ha]
    exact ⟨same.acked hw hf rfl .ackStartMove r.fid _, by simp,
      congrArg (fun v : State => { v with fsm := s.fsm }) (respondAck_frame _ _ _ (s.setFsm .running))⟩
  case empty =>
    rw [onDecoded, startMove_of_empty ha hc, startStatus_of_empty ha hc]
    exact ⟨(SameFifo.refl s).acked hw hf (by rw [hc]; rfl) .ackStartMove r.fid _, respondAck_frame ..⟩
  case queued =>
    have same : SameFifo s ((beginNext false s).setFsm .running) := ⟨by simp, by simp, by simp⟩
    have depth : ((beginNext false s).setFsm .running).q.count.toNat = s.q.count.toNat - 1 := by
      have := (hq.dequeued hw hc).1.count
      rw [State.setFsm_q, beginNext_q]; omega
    rw [onDecoded, startMove_of_queued ha hc, startStatus_of_queued ha hc]
    refine ⟨same.acked hw hf depth .ackStartMove r.fid _, by simp, ?begun, ?frame⟩
    case begun => apply beginNext_begun hw hq hc <;> simp
    case frame => apply State.eq_of_fields <;> simp

/-- Settles O29: the handler is `move_end(fid, ST_STOPPED)` in every engine state. -/
theorem moveEndRule : Obligations.MoveEndRule := fun _ _ r hw hf hr =>
  ⟨_, exec_of_decoded hr, rfl, moveEnd_stopped hw hf r.fid _⟩

/-- Settles O30: each round of the loop writes one axis, and the base is the position once the origin is the count. -/
theorem setOriginRule : Obligations.SetOriginRule := by
  intro s f r hw hf hr
  have enc (i : Axis) : ((onDecoded .setOrigin f r s).ok .unit).enc.get i = _ :=
    (congrArg (·.get i) (respondAck_enc ..)).trans (setOrigins_enc (axisMaskOf r) (.of (baseOf r)) s i)
  simp only [maskBit_axisMaskOf, PerAxis.get_of] at enc
  have same : SameFifo s (setOrigins (axisMaskOf r) (.of (baseOf r)) s) := ⟨by simp, by simp, by simp⟩
  refine ⟨_, exec_of_decoded hr, rfl, fun i hi => ?selected, fun i hi => ?others, ?response, ?frame⟩
  case selected =>
    rw [enc, if_pos hi]
    exact ⟨rfl, Enc.abs_of_origin ..⟩
  case others => rw [enc, if_neg (by simp [hi])]
  case response => exact same.acked hw hf (by simp) .ackSetOrigin r.fid _
  case frame => apply State.eq_of_fields <;> simp [onDecoded]

/-- Settles O31, by the value of an absolute position cut to the 32 bits of its field. -/
theorem encoderStatusRule : Obligations.EncoderStatusRule := by
  intro s f r hw hf hr pos
  have record : recordOfEncStatus r.fid (.of fun i => (s.enc.get i).abs) =
      ⟨r.fid, [(.abs .x, pos .x), (.abs .y, pos .y), (.abs .z, pos .z)]⟩ := by
    simp only [recordOfEncStatus, Axis.all, List.map_cons, List.map_nil, PerAxis.get_of, Enc.abs_cut, pos]
  refine ⟨_, exec_of_decoded hr, rfl, ?frame, ?response⟩
  case frame => exact congrArg (fun v : State => { v with result := s.result }) (pushResp_frame _ s)
  case response => exact record ▸ (SameFifo.refl s).responded hw hf .encStatus _

/-- Settles O32: the three handlers emit the frame they were given and touch nothing else. -/
theorem forwardedRequests : Obligations.ForwardedRequests := fun _ _ _ =>
  ⟨fun h => exec_of_decoded h, fun h => exec_of_decoded h, fun h => exec_of_decoded h⟩

/-- Settles O33, by the two things the handler can do. -/
theorem microstepsRule : Obligations.MicrostepsRule := by
  intro s f r hw hf hr m ack
  refine ⟨_, exec_of_decoded hr, rfl, fun hm => ?taken, fun hm => ?refused⟩
  case taken =>
    have same : SameFifo s (s.setCtl { s.ctl with microsteps := m }) := ⟨rfl, rfl, rfl⟩
    rw [show onDecoded .microsteps f r s = _ from setMicrosteps_of_ok hm r.fid s]
    exact ⟨same.acked hw hf rfl .ackMicrosteps r.fid _, by simp,
      congrArg (fun v : State => { v with ctl := s.ctl }) (respondAck_frame _ _ _ (s.setCtl _))⟩
  case refused =>
    rw [show onDecoded .microsteps f r s = _ from setMicrosteps_of_bad hm r.fid s]
    exact ⟨(SameFifo.refl s).acked hw hf rfl .ackMicrosteps r.fid _, respondAck_frame ..⟩

/-- Settles O34, by what arming and disarming write; the depth of the answer is taken after the clear. -/
theorem autoFrictionRule : Obligations.AutoFrictionRule := by
  intro s f r hw hf hr on ack
  refine ⟨_, exec_of_decoded hr, rfl, fun hon => ?armed, fun hoff => ?disarmed⟩
  case armed =>
    have same : SameFifo s (frictionArmed s) := ⟨rfl, rfl, rfl⟩
    rw [onDecoded, setFriction_of_on (e := r.bits 8 .enable) hon]
    exact ⟨same.acked hw hf rfl .ackAutoFriction r.fid _, respondAck_ctl .., respondAck_q .., respondAck_fsm ..,
      congrArg (fun v : State => { v with ctl := s.ctl, q := s.q, fsm := s.fsm })
        (respondAck_frame _ _ _ (frictionArmed s))⟩
  case disarmed =>
    have same : SameFifo s (s.setCtl { s.ctl with frictionEn := false }) := ⟨rfl, rfl, rfl⟩
    have off : r.bits 8 .enable = 0#8 := not_not.1 hoff
    rw [onDecoded, off, setFriction_of_off]
    exact ⟨same.acked hw hf rfl .ackAutoFriction r.fid _, by simp,
      congrArg (fun v : State => { v with ctl := s.ctl }) (respondAck_frame _ _ _ (s.setCtl _))⟩

end Sys2Proof.Machine

/-! The response FIFO and the SPI handshake (42_fifo_handshake.md R201 to R211): the obligations O20 to O24. What a push, a
pop, a load and a prime answer is said once, per outcome, in terms of the frames held; a run of several operations then only
has to follow those frames. -/

namespace Sys2Proof.Machine

section

variable {s : State} {f : List Byte} {rest : List (List Byte)}

/-! ### Push (R201, R210) -/

theorem exec_fifoPushExt_of_badLength (h : f.length = 0 ∨ 42 < f.length) :
    exec (.fifoPushExt f) s = .next (s.raise .invalidArgument) := by
  have : s.push (some f) = .error .invalidArgument := if_pos h
  simp only [exec, execFifoPushExt, this]

theorem exec_fifoPushExt_of_full (h1 : 1 ≤ f.length) (h2 : f.length ≤ 42) (hc : s.rf.count.toNat = s.cfg.respFifoCap) :
    exec (.fifoPushExt f) s = .next (s.raise .allocationError) := by
  have hlen : ¬(f.length = 0 ∨ f.length > frameMax) := by unfold frameMax; omega
  have : s.push (some f) = .error .allocationError := (if_neg hlen).trans (if_pos hc)
  simp only [exec, execFifoPushExt, this]

theorem exec_fifoPushExt_of_room (h1 : 1 ≤ f.length) (h2 : f.length ≤ 42) (hc : s.rf.count.toNat < s.cfg.respFifoCap) :
    exec (.fifoPushExt f) s = .next ((s.setRf (pushedFifo s.cfg f s.rf)).ok .unit) := by
  simp only [exec, execFifoPushExt, push_eq h1 h2 hc.ne]

/-! ### Pop (R203) -/

theorem held_length (s : State) : s.held.length = s.rf.count.toNat := heldFrames_length s.cfg s.rf

theorem held_eq_nil_iff : s.held = [] ↔ s.rf.count = 0#8 := by
  rw [← List.length_eq_zero_iff, held_length, BitVec.toNat_eq]
  rfl

/-- A held frame makes the count positive. -/
theorem count_pos_of_held (h : s.held = f :: rest) : 0 < s.rf.count.toNat := by
  simp [← held_length, h]

theorem FifoOk.pop_of_empty (hf : FifoOk s.cfg s.rf) (h : s.held = []) (cap : Nat) :
    s.pop cap = .ok ⟨0#8, [], s⟩ := by
  rcases hf.pop_cases cap with ⟨-, pop⟩ | ⟨f, rest, held, -⟩
  · exact pop
  · simp [h] at held

/-- What a pop does with the oldest frame, which is 1 to FRAME_MAX bytes. -/
theorem FifoOk.pop_of_held (hf : FifoOk s.cfg s.rf) (h : s.held = f :: rest) (cap : Nat) :
    f.length ≤ 42 ∧ (cap < f.length → s.pop cap = .error .rangeError) ∧
      (f.length ≤ cap → s.pop cap = .ok ⟨BitVec.ofNat 8 f.length, f, s.setRf (poppedFifo s.cfg s.rf)⟩) := by
  rcases hf.pop_cases cap with ⟨held, -⟩ | ⟨g, gs, held, -, bound, small, fits⟩
  · simp [h] at held
  · obtain ⟨rfl, -⟩ := List.cons.inj (h.symm.trans held)
    exact ⟨bound, small, fits⟩

theorem exec_fifoPop_of_ok {c : Byte} {p : Popped} (h : s.pop c.toNat = .ok p) :
    exec (.fifoPop c) s = .next (p.state.ok (.popped p.len p.bytes)) := by
  simp only [exec, execFifoPop, h]

theorem exec_fifoPop_of_error {c : Byte} {k : ErrorKind} (h : s.pop c.toNat = .error k) :
    exec (.fifoPop c) s = .next (s.raise k) := by
  simp only [exec, execFifoPop, h]

/-! ### Runs of pushes and pops (R205) -/

/-- `s` has a sound response FIFO that holds `fs`, oldest first. -/
structure FifoHolds (c : Config) (fs : List (List Byte)) (s : State) : Prop where
  cfg : s.cfg = c
  ok : FifoOk c s.rf
  held : heldFrames c s.rf = fs

theorem FifoHolds.count {c : Config} {fs : List (List Byte)} (h : FifoHolds c fs s) : s.rf.count.toNat = fs.length := by
  rw [← h.held, heldFrames_length]

/-- A push into a FIFO with room appends the frame. -/
theorem FifoHolds.push {c : Config} {fs : List (List Byte)} (h : FifoHolds c fs s) (hw : c.wf = true)
    (h1 : 1 ≤ f.length) (h2 : f.length ≤ 42) (room : fs.length < c.respFifoCap) :
    ∃ t, exec (.fifoPushExt f) s = .next t ∧ t.result = .ok .unit ∧ FifoHolds c (fs ++ [f]) t := by
  have hc : s.rf.count.toNat < c.respFifoCap := h.count ▸ room
  obtain ⟨rfl, ok, held⟩ := h
  obtain ⟨pushed, ok'⟩ := ok.pushed hw h1 h2 hc
  exact ⟨_, exec_fifoPushExt_of_room h1 h2 hc, rfl, rfl, ok', held ▸ pushed.held⟩

/-- A pop into a buffer that has room for it takes the oldest frame. -/
theorem FifoHolds.pop {c : Config} {fs : List (List Byte)} {cap : Byte} (h : FifoHolds c (f :: fs) s) (hw : c.wf = true)
    (fits : f.length ≤ cap.toNat) :
    ∃ t, exec (.fifoPop cap) s = .next t ∧ t.result = .ok (.popped (BitVec.ofNat 8 f.length) f) ∧ FifoHolds c fs t := by
  obtain ⟨rfl, ok, held⟩ := h
  obtain ⟨popped, ok'⟩ := ok.popped hw (count_pos_of_held held)
  obtain ⟨-, -, answer⟩ := ok.pop_of_held held cap.toNat
  exact ⟨_, exec_fifoPop_of_ok (answer fits), rfl, rfl, ok', popped.held.trans (congrArg List.tail held)⟩

/-- Pushes of as many frames as fit append them in order. -/
theorem execAll_pushes {c : Config} (hw : c.wf = true) {new : List (List Byte)}
    (bounds : ∀ f ∈ new, 1 ≤ f.length ∧ f.length ≤ 42) :
    ∀ {old : List (List Byte)} {s : State}, FifoHolds c old s → old.length + new.length ≤ c.respFifoCap →
      ∃ t, execAll (new.map .fifoPushExt) s = some (t, List.replicate new.length (.ok .unit)) ∧
        FifoHolds c (old ++ new) t := by
  induction new with
  | nil => exact fun h _ => ⟨_, rfl, by simpa using h⟩
  | cons f new ih =>
    intro old s h room
    obtain ⟨⟨h1, h2⟩, bounds⟩ := List.forall_mem_cons.mp bounds
    rw [List.length_cons] at room
    obtain ⟨t, run, result, h⟩ := h.push hw h1 h2 (by omega)
    obtain ⟨u, runs, h⟩ := ih bounds h (by rw [List.length_append, List.length_singleton]; omega)
    refine ⟨u, ?run, by simpa using h⟩
    simp only [List.map_cons, execAll, run, runs, result]
    rfl

/-- One pop more than frames held answers them in order, and then that nothing is held. -/
theorem execAll_pops {c : Config} {cap : Byte} (hw : c.wf = true) {fs : List (List Byte)}
    (fit : ∀ f ∈ fs, f.length ≤ cap.toNat) :
    ∀ {s : State}, FifoHolds c fs s →
      ∃ t, execAll (List.replicate (fs.length + 1) (.fifoPop cap)) s =
        some (t, fs.map (fun f => .ok (.popped (BitVec.ofNat 8 f.length) f)) ++ [.ok (.popped 0#8 [])]) := by
  induction fs with
  | nil =>
    rintro s ⟨rfl, ok, held⟩
    refine ⟨s.ok (.popped 0#8 []), ?_⟩
    simp only [List.length_nil, List.replicate, execAll, exec_fifoPop_of_ok (ok.pop_of_empty held _)]
    rfl
  | cons f fs ih =>
    intro s h
    obtain ⟨fits, fit⟩ := List.forall_mem_cons.mp fit
    obtain ⟨t, run, result, h⟩ := h.pop hw fits
    obtain ⟨u, runs⟩ := ih fit h
    refine ⟨u, ?_⟩
    rw [List.length_cons, List.replicate_succ]
    simp only [execAll, run, runs, result]
    rfl

/-! ### The pending register (R206) -/

/-- The state after a LOAD_PENDING that pops `f`. -/
def loadedState (f : List Byte) (s : State) : State :=
  ((s.setRf (poppedFifo s.cfg s.rf)).setSpi { s.spi with
    pending := ⟨true, BitVec.ofNat 8 f.length, overlay f s.spi.pending.data⟩ }).ok (.loaded true)

theorem exec_loadPending_of_kept (h : s.spi.pending.valid = true ∨ s.held = []) :
    exec .loadPending s = .next (s.ok (.loaded false)) := by
  have : ¬(s.spi.pending.valid = false ∧ s.rf.count ≠ 0#8) := by
    rintro ⟨absent, filled⟩
    rcases h with h | h
    · simp [absent] at h
    · exact filled (held_eq_nil_iff.mp h)
  exact if_neg this

theorem exec_loadPending_of_held (hf : FifoOk s.cfg s.rf) (absent : s.spi.pending.valid = false)
    (held : s.held = f :: rest) : exec .loadPending s = .next (loadedState f s) := by
  have filled : s.rf.count ≠ 0#8 := fun h => by simp [held_eq_nil_iff.mpr h] at held
  obtain ⟨bound, -, fits⟩ := hf.pop_of_held held frameMax
  simp only [exec, execLoadPending, if_pos (And.intro absent filled), fits bound]
  rfl

/-! ### PRIME (R207, R208) -/

/-- The state after a PRIME whose decision was `r` (R207). -/
def primedState (r : Primed) (s : State) : State :=
  (s.setSpi ⟨if r.consumed then { s.spi.pending with valid := false } else s.spi.pending, r.buf⟩).ok (.primed r.outcome)

theorem exec_prime (st : Byte) (s : State) : exec (.prime st) s =
    .next (primedState (primeFn s.cfg st (pendingFrame s.spi.pending) s.cfg.xferLen) s) := rfl

theorem primedState_frame (r : Primed) (s : State) :
    { primedState r s with spi := s.spi, result := s.result } = s := rfl

/-- A PRIME touches nothing of the pending register but `valid`. -/
theorem primedState_pending (r : Primed) (s : State) :
    (primedState r s).spi.pending = ⟨s.spi.pending.valid && !r.consumed, s.spi.pending.len, s.spi.pending.data⟩ := by
  rcases r with ⟨buf, o, _ | _⟩ <;> simp [primedState, State.setSpi, State.ok]

/-- With no response the buffer is all status, and the outcome tells READY, BUSY and the rest apart. -/
theorem primeFn_none (c : Config) (st : Byte) (cap : Nat) :
    (primeFn c st none cap).buf = List.replicate cap st ∧ (primeFn c st none cap).consumed = false ∧
      outcomeCode (primeFn c st none cap).outcome = if st = c.ready then 0 else if st = c.busy then 1 else 3 := by
  unfold primeFn
  dsimp only
  split
  · exact ⟨rfl, rfl, rfl⟩
  · split <;> exact ⟨rfl, rfl, rfl⟩

theorem primeFn_of_fits {c : Config} {st : Byte} {cap : Nat} (h1 : 1 ≤ f.length) (fits : f.length ≤ cap) :
    primeFn c st (some f) cap = ⟨f ++ List.replicate (cap - f.length) c.ready, .responseInjected, true⟩ :=
  (if_neg (by omega)).trans (if_pos fits)

theorem primeFn_of_long {c : Config} {st : Byte} {cap : Nat} (long : cap < f.length) :
    primeFn c st (some f) cap = ⟨List.replicate cap st, .unrecognized, false⟩ :=
  (if_neg (by omega)).trans (if_neg (by omega))

theorem pendingFrame_of_absent {p : Pending} (h : p.valid = false) : pendingFrame p = none := by simp [pendingFrame, h]

/-- A valid response is as long as its register says. -/
theorem SpiOk.pendingFrame_of_valid {c : Config} {p : Spi} (h : SpiOk c p) (hv : p.pending.valid = true) :
    pendingFrame p.pending = some (p.pending.data.take p.pending.len.toNat) ∧
      (p.pending.data.take p.pending.len.toNat).length = p.pending.len.toNat := by
  have bound := (h.len hv).2
  exact ⟨if_pos hv, by rw [List.length_take, h.data]; omega⟩

end

/-! ### The obligations -/

/-- Settles O20, by the three outcomes of `push`. -/
theorem pushRule : Obligations.PushRule := fun _ _ hw hf =>
  ⟨exec_fifoPushExt_of_badLength, exec_fifoPushExt_of_full, fun h1 h2 hc =>
    ⟨_, exec_fifoPushExt_of_room h1 h2 hc, rfl, (hf.pushed hw h1 h2 hc).1, rfl⟩⟩

/-- Settles O21, by the three outcomes of `pop`. -/
theorem popRule : Obligations.PopRule := by
  intro s c hw hf
  refine ⟨fun empty => exec_fifoPop_of_ok (hf.pop_of_empty empty _), fun f rest held => ?_⟩
  obtain ⟨-, small, fits⟩ := hf.pop_of_held held c.toNat
  exact ⟨fun h => exec_fifoPop_of_error (small h), fun h =>
    ⟨_, exec_fifoPop_of_ok (fits h), rfl, (hf.popped hw (count_pos_of_held held)).1, rfl⟩⟩

/-- Settles O22: the pushes fill the empty FIFO with the frames in order, and the pops take them from its front. -/
theorem fifoOrder : Obligations.FifoOrder := by
  intro s fs c hw hf empty room bounds
  have start : FifoHolds s.cfg [] s := ⟨rfl, hf, held_eq_nil_iff.mpr empty⟩
  have sizes (f) (hm : f ∈ fs) : 1 ≤ f.length ∧ f.length ≤ 42 := (bounds f hm).imp_right And.left
  have fit (f) (hm : f ∈ fs) : f.length ≤ c.toNat := (bounds f hm).2.2
  obtain ⟨t, pushes, filled⟩ := execAll_pushes hw sizes start (by simpa using room)
  obtain ⟨u, pops⟩ := execAll_pops hw fit filled
  exact ⟨u, by simp [execAll_append, pushes, pops]⟩

/-- Settles O23: the pop has room for any frame held, so it cannot fail. -/
theorem loadPendingRule : Obligations.LoadPendingRule := by
  intro s hw hf _
  refine ⟨exec_loadPending_of_kept, fun f rest absent held => ?_⟩
  have bound := (hf.pop_of_held held 0).1
  exact ⟨_, exec_loadPending_of_held hf absent held, rfl, (hf.popped hw (count_pos_of_held held)).1, rfl,
    Nat.mod_eq_of_lt (by omega), overlay_take f s.spi.pending.data, rfl, rfl⟩

/-- Settles O24, by the three cases of the decision function: a response that fits, one that does not, and none. -/
theorem primeRule : Obligations.PrimeRule := by
  intro s st hs n cap
  refine ⟨_, _, exec_prime st s, rfl, by rw [primedState_pending], by rw [primedState_pending], primedState_frame _ s,
    fun hv fits => ?fits, fun hv long => ?long, fun hv => ?absent⟩
  case fits =>
    obtain ⟨frame, length⟩ := hs.pendingFrame_of_valid hv
    rw [frame, primeFn_of_fits (length.symm ▸ (hs.len hv).1) (length.symm ▸ fits), length]
    exact ⟨rfl, rfl, rfl⟩
  case long =>
    obtain ⟨frame, length⟩ := hs.pendingFrame_of_valid hv
    rw [frame, primeFn_of_long (length.symm ▸ long)]
    exact ⟨rfl, rfl, hv⟩
  case absent =>
    obtain ⟨buf, kept, outcome⟩ := primeFn_none s.cfg st s.cfg.xferLen
    rw [pendingFrame_of_absent hv]
    exact ⟨buf, by rw [primedState_pending, kept, hv]; rfl, outcome⟩

end Sys2Proof.Machine

/-! The motion engine (43_motion_fsm.md R237 to R240): the obligations O36, O37 and O53. The engine invariant says that
a state has one of two shapes, a segment in progress or a machine at rest; each operation of the engine is said to keep a
shape or to pass to the other, and `Closed` carries that to every step. -/

namespace Sys2Proof.Machine

section

variable {s t : State} {a : AxisState} {p : Pin}

/-! ### The pulse of one axis (R35) -/

/-- "`high_hold > 0` implies the axis's step line is high" (R35). -/
def PulseOk (a : AxisState) (p : Pin) : Prop := a.highHold ≠ 0#32 → p.step = true

theorem PulseOk.congr {b : AxisState} {r : Pin} (h : PulseOk a p) (hb : b.highHold = a.highHold)
    (hr : r.step = p.step) : PulseOk b r := fun hne => hr.trans (h (hb ▸ hne))

theorem PulseOk.zero (p : Pin) : PulseOk .zero p := fun hne => absurd rfl hne

theorem closeHolds_zero (c : Config) : closeHolds c .zero = .zero := rfl

theorem closedPin_zero (p : Pin) : closedPin .zero p = p := rfl

/-- The line falls in the tick its high hold ends (R261). -/
theorem PulseOk.closed (h : PulseOk a p) (c : Config) : PulseOk (closeHolds c a) (closedPin a p) := by
  by_cases h0 : a.highHold = 0#32
  · exact fun hne => absurd (by simp [closeHolds, h0]) hne
  · by_cases he : pulseEnds a = true
    · exact fun hne => absurd (by simp [closeHolds, h0, he]) hne
    · rw [closedPin, if_neg he]
      exact fun _ => h h0

/-- The line rises in the tick its high hold starts (R263). -/
theorem PulseOk.moved (h : PulseOk a p) (c : Config) : PulseOk (movedAxis c a) (movedPin a p) := by
  by_cases ht : takesStep a = true
  · rw [movedPin, if_pos ht]
    exact fun _ => rfl
  · rw [movedPin, if_neg ht]
    refine h.congr ?_ rfl
    by_cases he : eligible a = true
    · have hs : stepsNow a = false := by simpa [takesStep, he] using ht
      simp [movedAxis, he, accumulated, hs]
    · rw [movedAxis, if_neg he]

/-- A begin leaves the high hold (R230). -/
theorem begunAxis_highHold (g : MoveSegment) (chained : Bool) (i : Axis) (s : State) :
    (begunAxis g chained i s).highHold = (s.ax.get i).highHold := by
  rw [begunAxis, beginSettle_eq, beginLoad_eq]

/-- So do the control steps (R280). -/
theorem controlledAxis_highHold (s : State) (m : Option Axis) (dec : PerAxis Bool) (i : Axis) :
    (controlledAxis s m dec i).highHold = (s.ax.get i).highHold :=
  (congrArg AxisState.highHold (controlled_frame s m dec i (s.ax.get i) rfl) :)

/-! ### The two shapes of an engine between operations (R239) -/

/-- A segment is in progress. -/
structure Moving (s : State) : Prop where
  active : s.seg.active = true
  fsm : s.fsm = .running
  pulse : ∀ i, PulseOk (s.ax.get i) (s.pin.get i)

/-- No segment is in progress: every axis is 0 and every line low. -/
structure Resting (s : State) : Prop where
  inactive : s.seg.active = false
  fsm : s.fsm = .idle ∨ s.fsm = .queued ∨ s.fsm = .done
  idle : s.fsm = .idle → s.q.count = 0#16
  axes : ∀ i, s.ax.get i = AxisState.zero
  lines : ∀ i, (s.pin.get i).step = false ∧ (s.pin.get i).en = false

theorem Resting.not_running (h : Resting s) : s.fsm ≠ .running := by
  rcases h.fsm with e | e | e <;> rw [e] <;> decide

theorem engineOk_iff (s : State) : EngineOk s ↔ Moving s ∨ Resting s := by
  constructor
  · intro h
    by_cases hr : s.fsm = .running
    · exact .inl ⟨h.active.2 hr, hr, h.pulse⟩
    · have inactive : s.seg.active = false := Bool.eq_false_iff.2 fun ha => hr (h.active.1 ha)
      have fsm : s.fsm = .idle ∨ s.fsm = .queued ∨ s.fsm = .done := by
        rcases h.between with e | e | e | e
        exacts [.inl e, .inr (.inl e), absurd e hr, .inr (.inr e)]
      exact .inr ⟨inactive, fsm, h.idle, h.rest inactive, h.lines hr⟩
  · rintro (h | h)
    · exact {
        active := iff_of_true h.active h.fsm
        between := .inr (.inr (.inl h.fsm))
        idle := fun e => absurd (h.fsm.symm.trans e) (by decide)
        rest := fun e => absurd (h.active.symm.trans e) (by decide)
        lines := fun hne => absurd h.fsm hne
        pulse := h.pulse }
    · exact {
        active := iff_of_false (by simp [h.inactive]) h.not_running
        between := by rcases h.fsm with e | e | e <;> simp [e]
        idle := h.idle
        rest := fun _ => h.axes
        lines := fun _ => h.lines
        pulse := fun i => (h.axes i).symm ▸ PulseOk.zero _ }

theorem Moving.engineOk (h : Moving s) : EngineOk s := (engineOk_iff s).2 (.inl h)

theorem Resting.engineOk (h : Resting s) : EngineOk s := (engineOk_iff s).2 (.inr h)

theorem EngineOk.congr (h : EngineOk s) (hf : t.fsm = s.fsm) (hg : t.seg = s.seg) (hq : t.q = s.q) (ha : t.ax = s.ax)
    (hp : t.pin = s.pin) : EngineOk t := by
  obtain ⟨active, between, idle, rest, lines, pulse⟩ := h
  constructor <;> simpa only [hf, hg, hq, ha, hp]

/-! ### Operations on a segment in progress -/

/-- It goes on while the axes' pulses are kept. -/
theorem Moving.of_pulses (h : Moving s) (hf : t.fsm = s.fsm) (hg : t.seg = s.seg)
    (hp : ∀ i, PulseOk (t.ax.get i) (t.pin.get i)) : Moving t :=
  ⟨hg ▸ h.active, hf ▸ h.fsm, hp⟩

theorem Moving.phases (h : Moving s) : Moving ((s.forAxes closePulse).forAxes accumulate) :=
  h.of_pulses (by simp [State.forAxes]) (by simp [State.forAxes]) fun i => by
    rw [moved_ax, moved_pin, closed_ax, closed_pin]
    exact ((h.pulse i).closed _).moved _

/-- A begin leaves the step lines and their holds (R230), so Running entered with one has a segment in progress. -/
theorem EngineOk.begun (h : EngineOk s) (chained : Bool) : Moving ((beginNext chained s).setFsm .running) where
  active := by simp
  fsm := rfl
  pulse i := by
    have kept : PulseOk (s.ax.get i) (s.pin.get i) := h.pulse i
    rw [State.setFsm_ax, State.setFsm_pin, beginNext_ax, beginNext_pin]
    exact kept.congr (begunAxis_highHold ..) rfl

/-! ### Operations that stop the axes (R231) -/

/-- After a stop the machine is at rest, whichever state the engine enters. -/
theorem resting_of_stopped (hg : t.seg.active = false) (ha : t.ax = .same .zero)
    (hp : ∀ i, (t.pin.get i).step = false ∧ (t.pin.get i).en = false)
    (hf : t.fsm = .idle ∧ t.q.count = 0#16 ∨ t.fsm = .done) : Resting t where
  inactive := hg
  fsm := by rcases hf with ⟨e, -⟩ | e <;> simp [e]
  idle e := by
    rcases hf with ⟨-, hq⟩ | hd
    · exact hq
    · exact absurd (hd.symm.trans e) (by decide)
  axes i := by rw [ha, PerAxis.get_same]
  lines := hp

theorem moveEnd_resting (fid status : Byte) (s : State) : Resting (moveEnd fid status s) :=
  resting_of_stopped (by simp) (by simp) (fun i => by simp) (.inl ⟨by simp, by simp⟩)

theorem resetState_resting (s : State) : Resting (resetState s) :=
  resting_of_stopped rfl rfl (fun i => by cases i <;> exact ⟨rfl, rfl⟩) (.inl ⟨rfl, rfl⟩)

/-! ### The operations of the engine -/

/-- An enqueue leaves Idle and Done for Queued (R220), and a braking latch it clears is 0 on an axis at rest. -/
theorem EngineOk.enqueued (h : EngineOk s) (g : MoveSegment) : EngineOk (enqueuedState g s) := by
  have axes (i : Axis) : (enqueuedState g s).ax.get i =
      if g.steps.get i ≠ 0#32 then { s.ax.get i with braking := false } else s.ax.get i := PerAxis.get_of _ i
  rcases (engineOk_iff s).1 h with hm | hr
  · have fsm : (enqueuedState g s).fsm = s.fsm := by simp [enqueuedState, hm.fsm]
    refine (hm.of_pulses fsm rfl fun i => (hm.pulse i).congr ?_ rfl).engineOk
    rw [axes]
    split <;> rfl
  · have fsm : (enqueuedState g s).fsm = .queued := by
      rcases hr.fsm with e | e | e <;> simp [enqueuedState, e]
    refine Resting.engineOk ⟨hr.inactive, .inr (.inl fsm), fun e => ?_, fun i => ?_, hr.lines⟩
    · exact absurd (fsm.symm.trans e) (by decide)
    · rw [axes, hr.axes i]
      split <;> rfl

theorem EngineOk.enqueue {g : MoveSegment} (h : EngineOk s) (he : s.enqueue g = .ok t) : EngineOk t := by
  rcases enqueue_cases g s with ⟨-, e⟩ | ⟨-, e⟩ <;> rw [e] at he <;> cases he
  exact h.enqueued g

theorem EngineOk.startMove (h : EngineOk s) : EngineOk (startMove s) := by
  rcases startMove_cases s with ⟨ha, e⟩ | ⟨-, -, e⟩ | ⟨-, -, e⟩ <;> rw [e]
  · exact h.congr (h.active.1 ha).symm rfl rfl rfl rfl
  · exact (h.begun false).engineOk
  · exact h

/-- Arming the friction self-test clears the queue, and then Queued is left for Idle (R188, R222). -/
theorem EngineOk.setFriction (h : EngineOk s) (e : Byte) : EngineOk (setFriction e s) := by
  by_cases he : e = 0#8
  · rw [he, setFriction_of_off]
    exact h.congr rfl rfl rfl rfl rfl
  · rw [setFriction_of_on he]
    rcases (engineOk_iff s).1 h with hm | hr
    · have fsm : (frictionArmed s).fsm = s.fsm := by simp [frictionArmed, hm.fsm]
      exact (hm.of_pulses fsm rfl hm.pulse).engineOk
    · refine Resting.engineOk ⟨hr.inactive, ?_, fun _ => rfl, hr.axes, hr.lines⟩
      rcases hr.fsm with e | e | e <;> simp [frictionArmed, e]

/-- The check starts the next segment, ends the move or waits (R267). -/
theorem Moving.completionCheck (h : Moving s) : EngineOk (completionCheck s) := by
  rcases completionCheck_cases s with ⟨-, -, e⟩ | ⟨-, -, -, e⟩ | ⟨e, -⟩ <;> rw [e]
  · exact (h.engineOk.begun true).engineOk.congr (by simp [h.fsm]) rfl rfl rfl rfl
  · exact (resting_of_stopped (by simp) (by simp) (fun i => by simp) (.inr (by simp))).engineOk
  · exact h.engineOk

/-- At rest no hold is open, so a tick changes no axis and no line (R261). -/
theorem EngineOk.tickHf (h : EngineOk s) : EngineOk (tickHf s) := by
  rcases (engineOk_iff s).1 h with hm | hr
  · rcases tickHf_cases s with ⟨hne, -⟩ | ⟨-, e⟩
    · exact absurd hm.fsm hne
    · rw [e]; exact hm.phases.completionCheck
  · rcases tickHf_cases s with ⟨-, e⟩ | ⟨hrun, -⟩
    · have axes : (s.forAxes closePulse).ax = s.ax :=
        PerAxis.ext_get fun i => by rw [closed_ax, hr.axes i, closeHolds_zero]
      have pins : (s.forAxes closePulse).pin = s.pin :=
        PerAxis.ext_get fun i => by rw [closed_pin, hr.axes i, closedPin_zero]
      rw [e]
      exact h.congr (by simp [State.forAxes]) (by simp [State.forAxes]) (by simp [State.forAxes]) axes pins
    · exact absurd hrun hr.not_running

/-- Outside Running the tick leaves the axes (R282), and in Running their high holds. -/
theorem EngineOk.tickLf (h : EngineOk s) (raw : PerAxis U32) : EngineOk (tickLf raw s) := by
  rcases tickLf_cases raw s with ⟨-, axes, -⟩ | ⟨hrun, -, axes⟩
  · exact h.congr (by simp) (by simp) (by simp) axes (by simp)
  · have hm : Moving s := ⟨h.active.2 hrun, hrun, h.pulse⟩
    refine (hm.of_pulses (by simp) (by simp) fun i => (hm.pulse i).congr ?_ (by simp)).engineOk
    rw [axes, controlledAxis_highHold, erredState_ax]

theorem engineOk_closed : Closed EngineOk :=
  .of_motion (congr := fun _ _ e h => h.congr e.fsm e.seg e.q e.ax e.pin)
    (enqueue := fun _ _ _ h he => h.enqueue he)
    (start := fun _ h => h.startMove)
    (stop := fun fid status s _ => (moveEnd_resting fid status s).engineOk)
    (friction := fun e _ h => h.setFriction e)
    (hf := fun _ h => h.tickHf)
    (lf := fun raw _ h => h.tickLf raw)
    (reset := fun s _ => (resetState_resting s).engineOk)

end

/-! ### The obligations on the engine -/

/-- Settles O53, by `Closed`: each operation of the engine keeps a segment in progress, begins one, or leaves the machine
at rest. -/
theorem engineInvariant : Obligations.EngineInvariant := fun _ _ h hs => engineOk_closed.step h hs

/-- Settles O36: an emergency stop is `move_end(f, ST_ESTOP)` in every engine state. -/
theorem estopRule : Obligations.EstopRule := fun _ hw hf => ⟨_, rfl, rfl, moveEnd_stopped hw hf _ _⟩

/-- Settles O37: both operations write `ctl.safe` and the result alone. -/
theorem setSafeRule : Obligations.SetSafeRule := fun _ => ⟨rfl, rfl⟩

end Sys2Proof.Machine

/-! TICK_HF in Running (44_dda_pulse.md R261 to R267): the obligations O40 and O41. Phases 1 and 2 leave one state, and the
tick is the completion check run from it; what the check does is said once, per outcome, for any state. -/

namespace Sys2Proof.Machine

section

variable {s u : State}

/-! ### The state after phases 1 and 2 -/

/-- The phases write the axes, their pins and the trace alone. -/
theorem HfPhases.frame (h : HfPhases s u) : { u with ax := s.ax, pin := s.pin, trace := s.trace } = s := by
  obtain ⟨-, -, -, -, -, -, -, frame⟩ := h
  exact frame

theorem HfPhases.seg (h : HfPhases s u) : u.seg = s.seg := (congrArg State.seg h.frame :)

theorem HfPhases.q (h : HfPhases s u) : u.q = s.q := (congrArg State.q h.frame :)

theorem HfPhases.sameFifo (h : HfPhases s u) : SameFifo s u :=
  ⟨(congrArg State.cfg h.frame :), (congrArg State.rf h.frame :), (congrArg State.cnt h.frame :)⟩

/-- Any state the phases may leave is the one the tick runs the completion check from. -/
theorem HfPhases.exec_tickHf (h : HfPhases s u) (hw : s.cfg.wf = true) (hr : s.fsm = .running)
    (ha : ∀ i, AxisOk s.cfg (s.ax.get i)) : exec .tickHf s = .next ((completionCheck u).ok .unit) := by
  have tick : exec .tickHf s = .next ((tickHf s).ok .unit) := rfl
  rcases tickHf_cases s with ⟨hne, -⟩ | ⟨-, e⟩
  · exact absurd hr hne
  · rw [tick, e, h.unique (afterPhases_spec s hw ha), afterPhases]

/-! ### The outcomes of the completion check (R267) -/

theorem completionCheck_of_unfinished (h : ∃ j, (u.ax.get j).emitted ≠ (u.ax.get j).total) : completionCheck u = u := by
  have : ¬ segmentDone u = true := by simpa [segmentDone_iff] using h
  exact if_neg this

theorem completionCheck_of_queued (hd : ∀ i, (u.ax.get i).emitted = (u.ax.get i).total) (hq : u.q.count ≠ 0#16) :
    completionCheck u = beginNext true u :=
  (if_pos ((segmentDone_iff u).2 hd)).trans (if_pos hq)

/-- The state after the last segment of the queue ends. -/
def endedState (u : State) : State := pushMoveEnd u.seg.fid u.cfg.stOk ((stopAllAxes u).setFsm .done)

theorem completionCheck_of_low (hd : ∀ i, (u.ax.get i).emitted = (u.ax.get i).total) (hq : u.q.count = 0#16)
    (low : ∀ i, (u.ax.get i).highHold = 0#32) : completionCheck u = endedState u :=
  (if_pos ((segmentDone_iff u).2 hd)).trans ((if_neg (not_not.2 hq)).trans (if_pos ((linesLow_iff u).2 low)))

theorem completionCheck_of_high (hq : u.q.count = 0#16) (high : ∃ i, (u.ax.get i).highHold ≠ 0#32) :
    completionCheck u = u := by
  have : ¬ linesLow u = true := by simpa [linesLow_iff] using high
  rcases completionCheck_cases u with ⟨-, hne, -⟩ | ⟨-, -, low, -⟩ | ⟨e, -⟩
  · exact absurd hq hne
  · exact absurd low this
  · exact e

/-! ### Chaining and ending -/

/-- A begin in Running changes the segment, the queue, the axes and the pins, with their events, and nothing else. -/
theorem beginNext_frame (chained : Bool) (u : State) :
    { (beginNext chained u).ok .unit with
      seg := u.seg, q := u.q, ax := u.ax, pin := u.pin, trace := u.trace, result := u.result } = u := by
  apply State.eq_of_fields <;> simp

theorem endedState_stopped (u : State) : AxesStopped u ((endedState u).ok .unit) := by
  refine stopAllAxes_stopped u _ ?_ ?_ ?_ ?_ <;> simp [endedState]

/-- The frame id of the notification is the one kept from before the stop. -/
theorem endedState_responded (h : SameFifo s u) (hw : s.cfg.wf = true) (hf : FifoOk s.cfg s.rf) :
    Responded (encodeResp s.cfg .moveEnd ⟨u.seg.fid, [(.status, (s.cfg.stOk.toNat : Int))]⟩) s
      ((endedState u).ok .unit) := by
  have stopped : SameFifo s ((stopAllAxes u).setFsm .done) := ⟨by simp [h.cfg], by simp [h.rf], by simp [h.cnt]⟩
  rw [endedState, pushMoveEnd, stopped.cfg, h.cfg]
  exact stopped.responded hw hf .moveEnd (recordOfMoveEnd u.seg.fid s.cfg.stOk)

theorem endedState_frame (u : State) :
    { (endedState u).ok .unit with
      fsm := u.fsm, seg := u.seg, ax := u.ax, pin := u.pin, trace := u.trace, rf := u.rf, cnt := u.cnt,
      result := u.result } = u := by
  apply State.eq_of_fields <;> simp [endedState]

end

/-! ### The obligations on the HF tick in Running -/

/-- Settles O40: the completion check leaves the state after the phases while some axis has steps left. -/
theorem hfTickSteps : Obligations.HfTickSteps := by
  intro s hw hr ha
  have phases : HfPhases s (afterPhases s) := afterPhases_spec s hw ha
  refine ⟨_, afterPhases s, phases.exec_tickHf hw hr ha, rfl, phases, fun unfinished => ?_⟩
  rw [completionCheck_of_unfinished unfinished]
  rfl

/-- Settles O41, by the three outcomes of the completion check on a complete segment. -/
theorem hfTickCompletes : Obligations.HfTickCompletes := by
  intro s u hw hr ha hq hf phases complete
  have same : SameFifo s u := phases.sameFifo
  refine ⟨_, phases.exec_tickHf hw hr ha, rfl, ?_⟩
  rw [← phases.q, ← phases.seg]
  refine ⟨fun hc => ?chained, fun hc low => ?ended, fun hc high => ?waiting⟩
  case chained =>
    have hq' : QueueOk u.cfg u.q := by rwa [same.cfg, phases.q]
    rw [completionCheck_of_queued complete hc]
    exact ⟨beginNext_begun (same.cfg ▸ hw) hq' hc true _ rfl rfl rfl rfl rfl, beginNext_frame true u⟩
  case ended =>
    rw [completionCheck_of_low complete hc low]
    exact ⟨by simp [endedState], endedState_stopped u, endedState_responded same hw hf, endedState_frame u⟩
  case waiting =>
    rw [completionCheck_of_high hc high]
    rfl

end Sys2Proof.Machine

/-! TICK_LF (45_control_loop.md R281 to R293): the obligations O44 to O47 and O49. What the tick leaves is said once, in
Running and outside it; the master is the least of a linear order, the progress as a rational number; and the rules of an
axis with steps follow from the one equation of its control steps. -/

namespace Sys2Proof.Machine

section

variable {s : State} {raw : PerAxis U32} {i : Axis}

/-! ### What the tick leaves (R280 to R282) -/

theorem exec_tickLf (raw : PerAxis U32) (s : State) : exec (.tickLf raw) s = .next ((tickLf raw s).ok .unit) := rfl

theorem tickLf_sampled (raw : PerAxis U32) (s : State) (i : Axis) :
    Sampled (s.cfg.encWidth.get i) (raw.get i) (s.enc.get i) ((tickLf raw s).enc.get i) := by
  rw [tickLf_enc]
  exact sampledEnc_spec _ _ _

/-- Of the control registers the tick writes the master alone. -/
theorem tickLf_ctl_frame (raw : PerAxis U32) (s : State) :
    { (tickLf raw s).ctl with master := s.ctl.master } = s.ctl := by
  rcases tickLf_cases raw s with ⟨-, -, ctl⟩ | ⟨-, ctl, -⟩ <;> rw [ctl]

theorem tickLf_frame (raw : PerAxis U32) (s : State) :
    { (tickLf raw s).ok .unit with
      enc := s.enc, ax := s.ax, ctl := { (tickLf raw s).ctl with master := s.ctl.master }, result := s.result } = s := by
  apply State.eq_of_fields <;> simp [tickLf_ctl_frame]

/-- Outside Running the tick clears the master and leaves the axes (R282). -/
theorem tickLf_of_not_running (h : s.fsm ≠ .running) :
    (tickLf raw s).ctl.master = none ∧ (tickLf raw s).ax = s.ax := by
  rcases tickLf_cases raw s with ⟨-, ax, ctl⟩ | ⟨hr, -⟩
  · exact ⟨by rw [ctl], ax⟩
  · exact absurd hr h

/-- In Running each axis is what the control steps make of it, from the errors of this tick. -/
theorem tickLf_ax (h : s.fsm = .running) (raw : PerAxis U32) :
    ∃ m dec, ∀ i, (tickLf raw s).ax.get i = controlledAxis (erredState raw s) m dec i := by
  rcases tickLf_cases raw s with ⟨hne, -⟩ | ⟨-, -, ax⟩
  · exact absurd h hne
  · exact ⟨_, _, ax⟩

theorem controlledAxis_of_idle {m : Option Axis} {dec : PerAxis Bool} (h : (s.ax.get i).total = 0#32) :
    controlledAxis s m dec i = s.ax.get i := if_pos h

/-! ### The errors and the frame of the axes (R284, R285) -/

theorem tickLf_err (h : s.fsm = .running) (raw : PerAxis U32) (i : Axis) :
    ((tickLf raw s).ax.get i).err.toInt =
      errorRule s.cfg s.ctl.microsteps i (s.pin.get i).dir ((tickLf raw s).enc.get i).cum (s.ax.get i) := by
  obtain ⟨m, dec, ax⟩ := tickLf_ax h raw
  rw [ax, controlled_err, erredState_err]

theorem tickLf_ax_frame (h : s.fsm = .running) (raw : PerAxis U32) (i : Axis) :
    { (tickLf raw s).ax.get i with
      err := (s.ax.get i).err, dFilt := (s.ax.get i).dFilt, integ := (s.ax.get i).integ, ePrev := (s.ax.get i).ePrev,
      braking := (s.ax.get i).braking, accFrac := (s.ax.get i).accFrac, vActual := (s.ax.get i).vActual,
      incr := (s.ax.get i).incr } = s.ax.get i := by
  obtain ⟨m, dec, ax⟩ := tickLf_ax h raw
  rw [ax]
  exact controlled_frame _ m dec i (s.ax.get i) (by rw [erredState_ax])

/-- An axis without steps keeps all but its error (R280). -/
theorem tickLf_ax_of_idle (h : s.fsm = .running) (raw : PerAxis U32) (hi : (s.ax.get i).total = 0#32) :
    { (tickLf raw s).ax.get i with err := (s.ax.get i).err } = s.ax.get i := by
  obtain ⟨m, dec, ax⟩ := tickLf_ax h raw
  rw [ax, controlledAxis_of_idle (by rw [erredState_ax]; exact hi), erredState_ax]

/-! ### The choice of the master (R286) -/

theorem outstanding_iff (a : AxisState) : outstanding a = true ↔ Outstanding a := by
  have nonzero : a.total ≠ 0#32 ↔ 0 < a.total.toNat := by
    rw [Nat.pos_iff_ne_zero, Ne, BitVec.toNat_eq]
    rfl
  simp only [outstanding, Outstanding, Bool.and_eq_true, bne_iff_ne, decide_eq_true_eq, nonzero, BitVec.lt_def]

/-- The least progress among the axes with outstanding work, if any has it. -/
def leastProgress (s : State) : Option Axis := bestOf (fun i => outstanding (s.ax.get i)) (lessProgress s)

/-- The most work left, if any axis has some. -/
def mostWork (s : State) : Option Axis :=
  bestOf (fun i => decide (remaining s i > 0)) fun j i => decide (remaining s j > remaining s i)

theorem selectMaster_eq (s : State) : selectMaster s = (leastProgress s).or (mostWork s) := by
  unfold selectMaster leastProgress mostWork bestOf
  split <;> simp_all

/-- Nothing before master selection writes what it reads. -/
theorem selectMaster_erredState (raw : PerAxis U32) (s : State) : selectMaster (erredState raw s) = selectMaster s := by
  obtain ⟨-, -, q, -⟩ := erredState_frame raw s
  have least : leastProgress (erredState raw s) = leastProgress s := by
    have compare : lessProgress (erredState raw s) = lessProgress s := by
      funext j i
      simp only [lessProgress, erredState_ax]
    simp only [leastProgress, outstanding, erredState_ax, compare]
  have work : remaining (erredState raw s) = remaining s := by
    funext i
    simp only [remaining, erredState_ax, q]
  rw [selectMaster_eq, selectMaster_eq, least, mostWork, mostWork, work]

theorem tickLf_master (h : s.fsm = .running) (raw : PerAxis U32) : (tickLf raw s).ctl.master = selectMaster s := by
  rcases tickLf_cases raw s with ⟨hne, -⟩ | ⟨-, ctl, -⟩
  · exact absurd h hne
  · rw [ctl, selectMaster_erredState]

theorem leastProgress_eq_none_iff (s : State) : leastProgress s = none ↔ ¬ ∃ j, Outstanding (s.ax.get j) := by
  simp [leastProgress, bestOf_none, ← outstanding_iff]

theorem mostWork_eq_none_iff (s : State) : mostWork s = none ↔ ¬ ∃ j, 0 < workLeft s j := by
  simp [mostWork, bestOf_none, remaining, workLeft]

/-- `emitted / total`. -/
def progress (a : AxisState) : ℚ := a.emitted.toNat / a.total.toNat

/-- Cross-multiplication compares the progress of axes with outstanding work exactly. -/
theorem progress_lt_iff {a b : AxisState} (ha : Outstanding a) (hb : Outstanding b) :
    progress a < progress b ↔ a.emitted.toNat * b.total.toNat < b.emitted.toNat * a.total.toNat := by
  have pa : (0 : ℚ) < a.total.toNat := mod_cast ha.1
  have pb : (0 : ℚ) < b.total.toNat := mod_cast hb.1
  rw [progress, progress, div_lt_div_iff₀ pa pb]
  exact_mod_cast Iff.rfl

theorem lessProgress_iff {j i : Axis} (hj : outstanding (s.ax.get j) = true) (hi : outstanding (s.ax.get i) = true) :
    lessProgress s j i = true ↔ progress (s.ax.get j) < progress (s.ax.get i) := by
  rw [progress_lt_iff ((outstanding_iff _).1 hj) ((outstanding_iff _).1 hi), lessProgress, decide_eq_true_eq]

theorem lessProgress_eq_false_iff {j i : Axis} (hj : outstanding (s.ax.get j) = true)
    (hi : outstanding (s.ax.get i) = true) :
    lessProgress s j i = false ↔ progress (s.ax.get i) ≤ progress (s.ax.get j) := by
  rw [← not_lt, ← lessProgress_iff hj hi, Bool.not_eq_true]

theorem leastProgress_spec {k : Axis} (h : leastProgress s = some k) : LeastProgress s k := by
  have pick := bestOf_some _ (lessProgress s) (ht := ?trans) (hneg := ?negTrans) (hirr := ?irrefl) (hasym := ?asymm) h
  case trans =>
    intro i j k hi hj hk
    rw [lessProgress_iff hi hj, lessProgress_iff hj hk, lessProgress_iff hi hk]
    exact lt_trans
  case negTrans =>
    intro i j k hi hj hk
    rw [lessProgress_eq_false_iff hj hi, lessProgress_eq_false_iff hk hj, lessProgress_eq_false_iff hk hi]
    exact le_trans
  case irrefl => simp [lessProgress]
  case asymm =>
    intro i j
    simpa [lessProgress] using le_of_lt
  obtain ⟨hk, best⟩ := pick
  refine ⟨(outstanding_iff _).1 hk, fun j hj => ?_⟩
  simpa [lessProgress] using best j ((outstanding_iff _).2 hj)

theorem mostWork_spec {k : Axis} (h : mostWork s = some k) : MostWork s k := by
  have pick := bestOf_some _ (fun j i => decide (remaining s j > remaining s i)) (ht := ?trans)
    (hneg := ?negTrans) (hirr := ?irrefl) (hasym := ?asymm) h
  case trans => intro i j k _ _ _; simpa using fun h1 h2 => h2.trans h1
  case negTrans => intro i j k _ _ _; simpa using fun h1 h2 => h2.trans h1
  case irrefl => simp
  case asymm => intro i j; simpa using le_of_lt
  obtain ⟨hk, best⟩ := pick
  have hk : 0 < workLeft s k := of_decide_eq_true hk
  refine ⟨hk, fun j => ?_⟩
  by_cases hj : 0 < workLeft s j
  · simpa [remaining, workLeft] using best j (decide_eq_true hj)
  · omega

/-! ### The velocity and the increment (R288, R292, R293) -/

/-- With no ramp the velocity is the control velocity at once (R291), and the ramp's registers stay. -/
theorem controlAxis_of_no_ramp {c : Config} (h : c.accel = 0) (friction throttled dec : Bool) (a : AxisState) :
    (controlAxis c friction throttled dec a).vActual = BitVec.ofNat 32 (controlVelocity c throttled a) ∧
      (controlAxis c friction throttled dec a).braking = a.braking ∧
      (controlAxis c friction throttled dec a).accFrac = a.accFrac := by
  simp only [controlAxis, ramp, if_pos h, pidUpdate, and_self]

theorem controlAxis_incr (c : Config) (friction throttled dec : Bool) (a : AxisState) :
    (controlAxis c friction throttled dec a).incr =
      BitVec.ofNat 32 (velToIncr c (outVel c friction (controlAxis c friction throttled dec a).vActual.toNat)) := rfl

/-- The increment fits its register. -/
theorem tickLf_incr (hw : s.cfg.wf = true) (hr : s.fsm = .running) (raw : PerAxis U32)
    (ht : (s.ax.get i).total ≠ 0#32) :
    ((tickLf raw s).ax.get i).incr.toNat =
      velToIncr s.cfg (outVel s.cfg s.ctl.frictionEn ((tickLf raw s).ax.get i).vActual.toNat) := by
  have fits := velToIncr_le hw (outVel s.cfg s.ctl.frictionEn ((tickLf raw s).ax.get i).vActual.toNat)
  rw [one] at fits
  rw [tickLf_axis raw s i hr ht] at fits ⊢
  rw [controlAxis_incr, BitVec.toNat_ofNat, Nat.mod_eq_of_lt (by omega)]

theorem velToIncr_of_ge {c : Config} {v : Nat} (h0 : 0 < v) (h : c.vMax ≤ v) : velToIncr c v = one :=
  (if_neg h0.ne').trans (if_pos h)

theorem velToIncr_of_lt {c : Config} {v : Nat} (h0 : 0 < v) (h : v < c.vMax) :
    velToIncr c v = v * one / (c.fHf - (c.pulseHigh + c.pulseLow - 1) * v) :=
  (if_neg h0.ne').trans (if_neg (Nat.not_le.2 h))

/-! ### The registers the PID leaves (R289) -/

/-- The deadbanded error is the error or 0, so it fits e_prev. -/
theorem toInt_ofInt_pidE1 (c : Config) (e : U32) : (BitVec.ofInt 32 (pidE1 c e.toInt)).toInt = pidE1 c e.toInt := by
  unfold pidE1
  split
  · rfl
  · rw [BitVec.ofInt_toInt]

theorem toInt_ofInt_derivative (c : Config) (a : AxisState) :
    (BitVec.ofInt 32 (derivative c a)).toInt = derivative c a :=
  ofInt_toInt_of_bounds (clamp_bounds _).1 (clamp_bounds _).2

end

/-! ### The obligations on the LF tick -/

/-- Settles O44: the sample runs in every state, and outside Running only the master is written besides. -/
theorem lfTickSamples : Obligations.LfTickSamples := by
  intro s raw
  refine ⟨_, exec_tickLf raw s, rfl, tickLf_sampled raw s, fun hne => ?_⟩
  obtain ⟨master, ax⟩ := tickLf_of_not_running (raw := raw) hne
  refine ⟨by rw [State.ok_ctl, master]; rfl, ?_⟩
  have frame := tickLf_frame raw s
  rw [← ax] at frame
  exact frame

/-- Settles O45, by the error of the tick and the frames of the axes and of the state. -/
theorem lfTickErrors : Obligations.LfTickErrors := fun s raw hr =>
  ⟨_, exec_tickLf raw s, rfl, tickLf_sampled raw s, tickLf_err hr raw, tickLf_ax_frame hr raw,
    fun _ hi => tickLf_ax_of_idle hr raw hi, tickLf_frame raw s⟩

/-- Settles O46: the candidates come first, and the work left decides only when there is none. -/
theorem masterAxisRule : Obligations.MasterAxisRule := by
  intro s raw hr
  refine ⟨_, exec_tickLf raw s, ?_⟩
  rw [State.ok_ctl, tickLf_master hr raw, selectMaster_eq, ← leastProgress_eq_none_iff, ← mostWork_eq_none_iff]
  refine ⟨fun candidate => ?least, fun noCandidate work => ?most, fun noCandidate noWork => ?none⟩
  case least =>
    have : leastProgress s ≠ none := fun h => (leastProgress_eq_none_iff s).1 h candidate
    obtain ⟨k, hk⟩ := Option.ne_none_iff_exists'.1 this
    exact ⟨k, by rw [hk, Option.some_or], leastProgress_spec hk⟩
  case most =>
    have : mostWork s ≠ none := fun h => (mostWork_eq_none_iff s).1 h work
    obtain ⟨k, hk⟩ := Option.ne_none_iff_exists'.1 this
    exact ⟨k, by rw [noCandidate, hk, Option.none_or], mostWork_spec hk⟩
  case none =>
    rw [noCandidate, noWork, Option.none_or]

/-- Settles O47, by the registers `pid(i)` writes and the control velocity, in the terms of the rules. -/
theorem pidAndThrottleRule : Obligations.PidAndThrottleRule := by
  intro s raw i hw hr ht
  refine ⟨_, exec_tickLf raw s, ?_⟩
  have axis := tickLf_axis raw s i hr ht
  dsimp only at axis
  rw [State.ok_ax, State.ok_ctl]
  generalize (tickLf raw s).ctl.master = m at axis ⊢
  generalize ((tickLf raw s).ax.get i).err = e at axis ⊢
  generalize brakeDecision s m i = dec at axis
  rw [axis]
  obtain ⟨dFilt, ePrev, integ⟩ := controlAxis_pid s.cfg s.ctl.frictionEn (m.isSome && m != some i) dec
    { s.ax.get i with err := e }
  rw [dFilt, ePrev, integ, toInt_ofInt_derivative, deadbanded_eq, toInt_ofInt_pidE1, derivative_eq, pidOut_eq, pidRaw_eq]
  refine ⟨rfl, rfl, fun unsaturated => if_pos unsaturated, fun saturated => if_neg saturated, fun noRamp => ?_⟩
  obtain ⟨vActual, braking, accFrac⟩ := controlAxis_of_no_ramp noRamp s.ctl.frictionEn (m.isSome && m != some i) dec
    { s.ax.get i with err := e }
  refine ⟨?_, braking, accFrac⟩
  rw [vActual, ← BitVec.ofInt_natCast, controlVelocity_eq]
  rfl

/-- Settles O49, by the branches of the increment; below V_MAX it is less than ONE. -/
theorem incrementRule : Obligations.IncrementRule := by
  intro s raw i hw hr ht
  refine ⟨_, exec_tickLf raw s, ?_⟩
  rw [State.ok_ax]
  have incr := tickLf_incr hw hr raw ht
  intro v out
  change _ = velToIncr s.cfg out at incr
  refine ⟨fun h0 => ?still, fun h0 hge => ?fastest, fun h0 hlt => ?between⟩
  case still =>
    rw [h0] at incr
    exact BitVec.eq_of_toNat_eq incr
  case fastest =>
    rw [incr, velToIncr_of_ge h0 hge]
    rfl
  case between =>
    rw [incr, velToIncr_of_lt h0 hlt]
    exact ⟨rfl, velToIncr_lt hw hlt⟩

end Sys2Proof.Machine

/-! A tail value inside a payload, and what a reset leaves (70_reset_and_hazards.md R350, R360): the obligations O16 and
O38. Bytes that complete no frame are only kept, so a frame with a tail value in its payload is dispatched as the bytes up
to that value, which are too few for its type. -/

namespace Sys2Proof.Machine

section

variable {s : State} {b : Byte} {f : List Byte}

/-! ### Bytes the router only keeps (R170) -/

theorem makeRoom_of_room (hi : s.rt.idx.toNat < s.cfg.routerCap) : makeRoom s = s := if_neg hi.ne

theorem routeByte_of_room (hi : s.rt.idx.toNat < s.cfg.routerCap) (b : Byte) :
    routeByte b s = recognise (appendByte b s) := by
  rw [routeByte, makeRoom_of_room hi]

theorem routeBytes_concat (bs : List Byte) (b : Byte) (s : State) :
    routeBytes (bs ++ [b]) s = routeByte b (routeBytes bs s) := by
  simp [routeBytes]

theorem no_tail_of_tailOffset_none {tail : Byte} {buf : List Byte} {n : Nat} (h : tailOffset tail buf n = none) :
    ∀ k, 3 ≤ k → k < n → byteAt buf k ≠ tail := by
  intro k h3 hk
  simpa using List.find?_eq_none.1 h k (List.mem_range'_1.2 ⟨h3, by omega⟩)

/-- An append that completes no frame keeps the router invariant. -/
theorem RouterOk.appendByte (hr : RouterOk s.cfg s.rt) (hi : s.rt.idx.toNat < s.cfg.routerCap) (hw : s.cfg.wf = true)
    (hh : byteAt (s.accumulated ++ [b]) 0 = s.cfg.hdrReq)
    (ho : ¬ (4 ≤ (s.accumulated ++ [b]).length ∧ b = s.cfg.tailReq)) : RouterOk s.cfg (appendByte b s).rt where
  buf := by simp [hr.buf]
  idx := by rw [appendByte_idx hi hw]; exact hi
  header _ := (appendByte_first hr hi hw).trans hh
  tail := no_tail_of_tailOffset_none (tailOffset_of_open hr hi hw ho)

/-- A byte that completes no frame of the candidate is kept, and the router alone changes. -/
theorem routeByte_of_open (hr : RouterOk s.cfg s.rt) (hi : s.rt.idx.toNat < s.cfg.routerCap) (hw : s.cfg.wf = true)
    (hh : byteAt (s.accumulated ++ [b]) 0 = s.cfg.hdrReq)
    (ho : ¬ (4 ≤ (s.accumulated ++ [b]).length ∧ b = s.cfg.tailReq)) :
    ∃ r, RouterOk s.cfg r ∧ (s.setRt r).accumulated = s.accumulated ++ [b] ∧ routeByte b s = s.setRt r := by
  obtain ⟨-, -, keep⟩ := recognise_appendByte hr hi hw rfl
  exact ⟨_, hr.appendByte hi hw hh ho, appendByte_accumulated hr hi hw, (routeByte_of_room hi b).trans (keep hh ho)⟩

/-- The first bytes of a frame, as long as none is a tail at offset 3 or later, are kept, and the router alone changes. -/
theorem routeBytes_of_open (hw : s.cfg.wf = true) (hr : RouterOk s.cfg s.rt) (h0 : s.rt.idx = 0#8)
    (hh : byteAt f 0 = s.cfg.hdrReq) {n : Nat} (hn : n ≤ f.length) (hcap : n ≤ s.cfg.routerCap)
    (ho : ∀ j, 3 ≤ j → j < n → byteAt f j ≠ s.cfg.tailReq) :
    ∃ r, RouterOk s.cfg r ∧ (s.setRt r).accumulated = f.take n ∧ routeBytes (f.take n) s = s.setRt r := by
  induction n with
  | zero => exact ⟨s.rt, hr, by simp [State.accumulated, h0], rfl⟩
  | succ n ih =>
    obtain ⟨r, hr', hacc, hrun⟩ := ih (by omega) (by omega) fun j h3 hj => ho j h3 (by omega)
    have hlen : (f.take n).length = n := List.length_take_of_le (by omega)
    have hidx : (s.setRt r).rt.idx.toNat = n := by rw [← accumulated_length (s := s.setRt r) hr', hacc, hlen]
    rw [take_succ_byteAt (by omega), routeBytes_concat, hrun, ← hacc]
    refine routeByte_of_open (s := s.setRt r) hr' (by rw [hidx]; exact hcap) hw ?header ?stillOpen
    case header => rw [hacc, ← take_succ_byteAt (by omega), byteAt_take (by omega)]; exact hh
    case stillOpen =>
      rw [hacc, List.length_append, hlen, List.length_singleton]
      rintro ⟨h4, hb⟩
      exact ho n (by omega) (by omega) hb

/-! ### The first tail of a frame (R170, R360) -/

/-- A frame is dispatched up to its first tail at offset 3 or later, from an empty accumulator. -/
theorem routeBytes_of_tail (hw : s.cfg.wf = true) (hr : RouterOk s.cfg s.rt) (h0 : s.rt.idx = 0#8)
    (hh : byteAt f 0 = s.cfg.hdrReq) {k : Nat} (h3 : 3 ≤ k) (hk : k < f.length) (hcap : k < s.cfg.routerCap)
    (ht : byteAt f k = s.cfg.tailReq) (ho : ∀ j, 3 ≤ j → j < k → byteAt f j ≠ s.cfg.tailReq) :
    ∃ r, r.idx = 0#8 ∧ routeBytes (f.take (k + 1)) s = dispatch (f.take (k + 1)) (s.setRt r) := by
  obtain ⟨r, hr', hacc, hrun⟩ := routeBytes_of_open hw hr h0 hh hk.le hcap.le ho
  have hlen : (f.take k).length = k := List.length_take_of_le hk.le
  have hidx : (s.setRt r).rt.idx.toNat < s.cfg.routerCap := by
    rw [← accumulated_length (s := s.setRt r) hr', hacc, hlen]
    exact hcap
  have hcut : f.take (k + 1) = (s.setRt r).accumulated ++ [byteAt f k] := by rw [hacc, take_succ_byteAt hk]
  obtain ⟨-, complete, -⟩ := recognise_appendByte (s := s.setRt r) hr' hidx hw hcut
  refine ⟨{ (appendByte (byteAt f k) (s.setRt r)).rt with idx := 0#8 }, rfl, ?_⟩
  calc routeBytes (f.take (k + 1)) s
      = routeByte (byteAt f k) (s.setRt r) := by rw [take_succ_byteAt hk, routeBytes_concat, hrun]
    _ = recognise (appendByte (byteAt f k) (s.setRt r)) := routeByte_of_room hidx _
    _ = dispatch (f.take (k + 1)) (dropAccumulation (appendByte (byteAt f k) (s.setRt r))) :=
        complete (by rw [byteAt_take (by omega)]; exact hh) (by rw [List.length_take_of_le hk]; omega) ht

/-- A frame shorter than its type's length is dropped and counted (R140, R175). -/
theorem dispatch_of_short {ty : ReqType} (hw : s.cfg.wf = true) (hcode : s.cfg.reqCode.get ty = byteAt f 1)
    (hlen : f.length < (s.cfg.reqLayout.get ty).len) : dispatch f s = s.countFrameDrop := by
  rw [dispatch_of_code hw hcode]
  exact handle_of_rejected (decodeFrame_of_short hlen)

/-- A frame of a request type fits the router's accumulator (R97, R45). -/
theorem Config.reqLayout_len_le_routerCap {c : Config} (hw : c.wf = true) (ty : ReqType) :
    (c.reqLayout.get ty).len ≤ c.routerCap := by
  obtain ⟨-, hlen, -⟩ := Layout.wf_parts (Config.reqLayout_wf hw ty)
  exact hlen.trans (Config.routerCap_bounds hw).1

end

/-! ### Reset (R350) -/

/-- The contents R350 leaves unspecified: the queue's and the FIFO's slots, the pending register, the transmit buffer. -/
structure ResetContents where
  segments : List MoveSegment
  frames : List FifoSlot
  pending : Pending
  tx : List Byte

/-- Each buffer has its length, and no response is pending. -/
structure ResetContents.Fits (u : ResetContents) (c : Config) : Prop where
  segments : u.segments.length = c.qcap
  frames : u.frames.length = c.respFifoCap
  data : ∀ t ∈ u.frames, t.data.length = frameMax
  absent : u.pending.valid = false
  pending : u.pending.data.length = frameMax
  tx : u.tx.length = c.xferLen

/-- What power-on puts there (log entry 4). -/
def ResetContents.zero (c : Config) : ResetContents where
  segments := List.replicate c.qcap .zero
  frames := List.replicate c.respFifoCap ⟨0#8, List.replicate frameMax 0#8⟩
  pending := ⟨false, 0#8, List.replicate frameMax 0#8⟩
  tx := List.replicate c.xferLen 0#8

/-- What RESET puts there (log entry 5). -/
def ResetContents.free (c : Config) (draw : Nat) : ResetContents where
  segments := tabulate c.qcap (freeSegment draw)
  frames := tabulate c.respFifoCap (freeFifoSlot draw)
  pending := freePending draw
  tx := tabulate c.xferLen (Config.freeTxByte draw)

@[simp] theorem tabulate_length {α : Type} (n : Nat) (g : Nat → α) : (tabulate n g).length = n := by simp [tabulate]

theorem ResetContents.Fits.zero (c : Config) : (ResetContents.zero c).Fits c where
  segments := List.length_replicate
  frames := List.length_replicate
  data t ht := by rw [List.eq_of_mem_replicate ht]; exact List.length_replicate
  absent := rfl
  pending := List.length_replicate
  tx := List.length_replicate

theorem ResetContents.Fits.free (c : Config) (draw : Nat) : (ResetContents.free c draw).Fits c where
  segments := tabulate_length ..
  frames := tabulate_length ..
  data t ht := by
    obtain ⟨j, -, rfl⟩ := List.mem_map.1 ht
    exact tabulate_length ..
  absent := rfl
  pending := tabulate_length ..
  tx := tabulate_length ..

/-- The power-on state with the contents `u` where R350 leaves them unspecified, and with other outputs. -/
def State.resetWithContents (c : Config) (u : ResetContents) (port : List PortItem) (trace : List Event) (free : Nat) :
    State :=
  let r := State.resetWith c
  { r with
    q := { r.q with slots := u.segments }
    rf := { r.rf with slots := u.frames }
    spi := ⟨u.pending, u.tx⟩
    port := port
    trace := trace
    free := free }

theorem resetWith_eq_resetWithContents (c : Config) :
    State.resetWith c = .resetWithContents c (.zero c) [] [] 0 := rfl

theorem resetState_eq_resetWithContents (s : State) :
    resetState s = .resetWithContents s.cfg (.free s.cfg s.free) s.port (stopAllAxes s).trace (s.free + 1) := rfl

theorem Config.microstepReset_lt {c : Config} (h : c.wf = true) : c.microstepReset < 2 ^ 16 := by
  simp [Config.wf, Config.numbersOk] at h
  have : microstepMax = 256 := rfl
  omega

section

variable {c : Config} {u : ResetContents}

/-- Both queues being empty, no index or length that is read depends on the unspecified contents (R75). -/
theorem resetWithContents_shaped (hw : c.wf = true) (hu : u.Fits c) (port : List PortItem) (trace : List Event)
    (free : Nat) : (State.resetWithContents c u port trace free).shaped = true := by
  have queue := Config.qcap_pos hw
  have fifo := Config.respFifoCap_pos hw
  simpa [State.shaped, State.resetWithContents, State.resetWith, heldLengths, queue, fifo, hu.segments, hu.frames,
    hu.absent, hu.pending, hu.tx] using hu.data

theorem resetWithContents_resetValues (hw : c.wf = true) (hu : u.Fits c) (port : List PortItem) (trace : List Event)
    (free : Nat) : ResetValues (.resetWithContents c u port trace free) where
  result := rfl
  fsm := rfl
  seg := rfl
  queue := ⟨rfl, rfl, rfl, PerAxis.get_same _⟩
  axes := PerAxis.get_same _
  pins := PerAxis.get_same _
  encoders := PerAxis.get_same _
  microsteps := Nat.mod_eq_of_lt (Config.microstepReset_lt hw)
  control := ⟨rfl, rfl, rfl⟩
  router := ⟨rfl, fun _ => List.eq_of_mem_replicate⟩
  fifo := ⟨rfl, rfl⟩
  pending := hu.absent
  counters := rfl
  shaped := resetWithContents_shaped hw hu port trace free

end

theorem exec_reset (s : State) : exec .reset s = .next ((resetState s).ok .unit) := rfl

/-- The events of a stop, in axis order (R231). -/
theorem stopAllAxes_trace_flatMap (s : State) :
    (stopAllAxes s).trace = s.trace ++ Axis.all.flatMap fun i => stopEvents i (s.pin.get i) := by
  simp [Axis.all, PerAxis.get]

/-! ### The obligations -/

/-- Settles O16: the bytes up to the first tail are dispatched (`routeBytes_of_tail`), and they are too few for the type
their second byte names. -/
theorem tailInPayloadTruncates : Obligations.TailInPayloadTruncates := by
  intro s ty f k hw hr h0 hlen hh hcode h3 hk ht ho
  have hcap : k < s.cfg.routerCap := by
    have := Config.reqLayout_len_le_routerCap hw ty
    omega
  have hcut : (f.take (k + 1)).length = k + 1 := List.length_take_of_le hk.le
  obtain ⟨r, hidx, hrun⟩ := routeBytes_of_tail hw hr h0 hh h3 (by omega) hcap ht ho
  have dropped : dispatch (f.take (k + 1)) (s.setRt r) = (s.setRt r).countFrameDrop :=
    dispatch_of_short (s := s.setRt r) hw (by rw [byteAt_take (by omega)]; exact hcode.symm)
      (by rw [hcut, State.setRt_cfg]; omega)
  refine ⟨((s.setRt r).countFrameDrop).ok .unit, ?run, ?empty, rfl, rfl⟩
  case run => rw [execAll_rxBytes (List.ne_nil_of_length_pos (by omega)), hcut, hrun, dropped]
  case empty => simp [State.accumulated, hidx]

/-- Settles O38: power-on and RESET leave one state but for the contents R350 leaves unspecified, and RESET stops the axes
first. -/
theorem resetRule : Obligations.ResetRule := by
  intro s hw
  refine ⟨⟨?powerOn, rfl, rfl⟩, _, exec_reset s, ?reset, rfl, rfl, stopAllAxes_trace_flatMap s⟩
  case powerOn =>
    rw [resetWith_eq_resetWithContents]
    exact resetWithContents_resetValues hw (.zero _) ..
  case reset => exact resetWithContents_resetValues hw (.free _ _) ..

end Sys2Proof.Machine

/-! The decoder and the encoder are inverse (30_encoding.md R90 to R96), and what a step does with what it decodes:
the obligations O1 to O4 and O6. A row of the table is a command word or one of the two kinds of message, so the
messages are two cases and not nineteen. -/

namespace Sys2Proof.Machine

section

variable {c : Config} {f : List Byte} {i : Instr}

/-! ### The rows of the table -/

/-- A statement about every instruction: the command words one by one, the messages by their kind. -/
theorem Instr.rowCases {motive : Instr → Prop} (nop : motive .nop) (rxByte : ∀ b, motive (.rxByte b))
    (rxTransfer : ∀ buf, motive (.rxTransfer buf)) (tickHf : motive .tickHf) (tickLf : ∀ raw, motive (.tickLf raw))
    (estop : motive .estop) (fifoPop : ∀ n, motive (.fifoPop n)) (loadPending : motive .loadPending)
    (prime : ∀ st, motive (.prime st)) (statusSelect : ∀ n, motive (.statusSelect n))
    (fifoPushExt : ∀ frame, motive (.fifoPushExt frame)) (setSafe0 : motive .setSafe0) (setSafe1 : motive .setSafe1)
    (fifoCount : motive .fifoCount) (reset : motive .reset) (reservedD : ∀ rest, motive (.reservedD rest))
    (reservedE : ∀ rest, motive (.reservedE rest)) (request : ∀ ty f, motive (Instr.ofRequest ty f))
    (response : ∀ ty f, motive (Instr.ofResponse ty f)) (i : Instr) : motive i := by
  cases i with
  | nop => exact nop
  | rxByte b => exact rxByte b
  | rxTransfer buf => exact rxTransfer buf
  | tickHf => exact tickHf
  | tickLf raw => exact tickLf raw
  | estop => exact estop
  | fifoPop n => exact fifoPop n
  | loadPending => exact loadPending
  | prime st => exact prime st
  | statusSelect n => exact statusSelect n
  | fifoPushExt frame => exact fifoPushExt frame
  | setSafe0 => exact setSafe0
  | setSafe1 => exact setSafe1
  | fifoCount => exact fifoCount
  | reset => exact reset
  | reservedD rest => exact reservedD rest
  | reservedE rest => exact reservedE rest
  | reqMoveQueueAdd f => exact request .moveQueueAdd f
  | reqMoveQueueStatus f => exact request .moveQueueStatus f
  | reqStartMove f => exact request .startMove f
  | reqMoveEnd f => exact request .moveEnd f
  | reqSetOrigin f => exact request .setOrigin f
  | reqEncoderStatus f => exact request .encoderStatus f
  | reqLedControl f => exact request .ledControl f
  | reqHome f => exact request .home f
  | reqProbeLevel f => exact request .probeLevel f
  | reqMicrosteps f => exact request .microsteps f
  | reqAutoFriction f => exact request .autoFriction f
  | respAckMoveQueueAdd f => exact response .ackMoveQueueAdd f
  | respAckStartMove f => exact response .ackStartMove f
  | respAckSetOrigin f => exact response .ackSetOrigin f
  | respAckMicrosteps f => exact response .ackMicrosteps f
  | respAckAutoFriction f => exact response .ackAutoFriction f
  | respStatus f => exact response .status f
  | respMoveEnd f => exact response .moveEnd f
  | respEncStatus f => exact response .encStatus f

@[simp] theorem wf_ofRequest (c : Config) (ty : ReqType) (f : List Byte) :
    (Instr.ofRequest ty f).wf c = wfRequest c ty f := by cases ty <;> rfl

@[simp] theorem wf_ofResponse (c : Config) (ty : RespType) (f : List Byte) :
    (Instr.ofResponse ty f).wf c = wfResponse c ty f := by cases ty <;> rfl

@[simp] theorem encode_ofRequest (ty : ReqType) (f : List Byte) : encode (.ofRequest ty f) = .message f := by
  cases ty <;> rfl

@[simp] theorem encode_ofResponse (ty : RespType) (f : List Byte) : encode (.ofResponse ty f) = .message f := by
  cases ty <;> rfl

/-! ### Messages (R95, R96, R172) -/

theorem wfRequest_iff (ty : ReqType) : wfRequest c ty f = true ↔
    ∃ rest, f = c.hdrReq :: c.reqCode.get ty :: rest ∧ frameMin ≤ f.length ∧ f.length ≤ c.routerCap := by
  rcases f with _ | ⟨h, _ | ⟨code, rest⟩⟩ <;> simp [wfRequest, frameMin]
  tauto

theorem wfResponse_iff (ty : RespType) : wfResponse c ty f = true ↔
    ∃ rest, f = c.hdrResp :: c.respCode.get ty :: rest ∧ frameMin ≤ f.length ∧ f.length ≤ frameMax := by
  rcases f with _ | ⟨h, _ | ⟨code, rest⟩⟩ <;> simp [wfResponse, frameMin]
  tauto

theorem decodeMessage_of_wfRequest (hw : c.wf = true) {ty : ReqType} (h : wfRequest c ty f = true) :
    decodeMessage c f = .ok (.ofRequest ty f) := by
  obtain ⟨rest, rfl, len⟩ := (wfRequest_iff ty).1 h
  rw [decodeMessage, if_pos rfl, requestType_code hw]
  exact if_pos len

theorem decodeMessage_of_wfResponse (hw : c.wf = true) {ty : RespType} (h : wfResponse c ty f = true) :
    decodeMessage c f = .ok (.ofResponse ty f) := by
  obtain ⟨rest, rfl, len⟩ := (wfResponse_iff ty).1 h
  rw [decodeMessage, if_neg (Config.hdr_ne hw), if_pos rfl, responseType_code hw]
  exact if_pos len

theorem code_of_requestType {code : Byte} {ty : ReqType} (h : requestType c code = some ty) :
    code = c.reqCode.get ty := by
  have found := List.find?_some h
  exact (beq_iff_eq.1 found).symm

theorem code_of_responseType {code : Byte} {ty : RespType} (h : responseType c code = some ty) :
    code = c.respCode.get ty := by
  have found := List.find?_some h
  exact (beq_iff_eq.1 found).symm

/-- What decodes as a message is a well-formed row of one of the two kinds. -/
theorem decodeMessage_cases (h : decodeMessage c f = .ok i) :
    (∃ ty, i = .ofRequest ty f ∧ wfRequest c ty f = true) ∨ ∃ ty, i = .ofResponse ty f ∧ wfResponse c ty f = true := by
  rcases f with _ | ⟨hdr, _ | ⟨code, rest⟩⟩
  case nil => cases h
  case cons.nil => cases h
  rw [decodeMessage] at h
  by_cases hReq : hdr = c.hdrReq
  · rw [if_pos hReq] at h
    cases found : requestType c code with rw [found] at h
    | none => cases h
    | some ty =>
      dsimp only at h
      split_ifs at h with len
      cases h
      exact .inl ⟨ty, rfl, (wfRequest_iff ty).2 ⟨rest, by rw [hReq, code_of_requestType found], len⟩⟩
  · rw [if_neg hReq] at h
    by_cases hResp : hdr = c.hdrResp
    case neg => rw [if_neg hResp] at h; cases h
    rw [if_pos hResp] at h
    cases found : responseType c code with rw [found] at h
    | none => cases h
    | some ty =>
      dsimp only at h
      split_ifs at h with len
      cases h
      exact .inr ⟨ty, rfl, (wfResponse_iff ty).2 ⟨rest, by rw [hResp, code_of_responseType found], len⟩⟩

/-! ### Command words (R90, R91) -/

@[simp] theorem opOf_commandWord (op : BitVec 4) (d : Byte) : opOf (commandWord op d) = op :=
  (fields_commandWord op d).1

@[simp] theorem argOf_commandWord (op : BitVec 4) (d : Byte) : argOf (commandWord op d) = 0#4 :=
  (fields_commandWord op d).2.1

@[simp] theorem dataOf_commandWord (op : BitVec 4) (d : Byte) : dataOf (commandWord op d) = d :=
  (fields_commandWord op d).2.2

@[simp] theorem opOf_reserved (op : BitVec 4) (rest : BitVec 12) : opOf (op ++ rest : BitVec 16) = op :=
  Laws.PortShape.opOf_append op rest

@[simp] theorem rest_reserved (op : BitVec 4) (rest : BitVec 12) :
    (op ++ rest : BitVec 16).extractLsb' 0 12 = rest := by
  apply BitVec.eq_of_getLsbD_eq
  intro k hk
  rw [BitVec.getLsbD_extractLsb', Nat.zero_add, BitVec.getLsbD_append]
  simp [hk]

/-- The operation whose DATA column is 0 spells its word alone (R91, R92). -/
theorem noData_eq_ok_iff {d : Byte} {j : Instr} : noData d j = .ok i ↔ d = 0#8 ∧ j = i := by
  unfold noData
  split <;> simp [*]

/-- `i` is well formed and its encoding is the command word `w`, on whatever buses. -/
def IsCommand (c : Config) (w : BitVec 16) (i : Instr) : Prop :=
  i.wf c = true ∧ ∃ v, encode i = .command v ∧ v.word = w

/-- A word that is not reserved is its OP and its DATA, the ARG being 0 (R90, R92). -/
theorem IsCommand.of_fields {w : BitVec 16} {op : BitVec 4} {d : Byte} {v : PortWord} (wf : i.wf c = true)
    (hi : encode i = .command v) (hv : v.word = commandWord op d) (hop : opOf w = op) (harg : argOf w = 0#4)
    (hd : dataOf w = d) : IsCommand c w i :=
  ⟨wf, v, hi, hv.trans (commandWord_fields hop harg hd)⟩

/-- The rows that read neither DATA nor a bus but RAW (R91). -/
def plainOps : List (BitVec 4) := [0x0#4, 0x3#4, 0x4#4, 0x5#4, 0x7#4, 0xC#4, 0xF#4]

/-- The table of R91 by what a row reads: the two reserved rows, the plain rows, the rows with a DATA byte, the two
with a bus, and SET_SAFE. -/
theorem op_rows (op : BitVec 4) :
    op = 0xD#4 ∨ op = 0xE#4 ∨ op ∈ plainOps ∨ op ∈ anyDataOps ∨ op = 0x2#4 ∨ op = 0xA#4 ∨ op = 0xB#4 := by
  revert op; decide

section

variable {p : PortWord}

theorem IsCommand.of_plainOps (hop : opOf p.word ∈ plainOps) (harg : argOf p.word = 0#4)
    (h : decodeCommand c p = .ok i) : IsCommand c p.word i := by
  simp only [plainOps, List.mem_cons, List.not_mem_nil, or_false] at hop
  rcases hop with hop | hop | hop | hop | hop | hop | hop <;>
    simp [decodeCommand, hop, harg, noData_eq_ok_iff] at h <;>
    obtain ⟨hd, rfl⟩ := h <;>
    exact .of_fields rfl rfl rfl hop harg hd

theorem IsCommand.of_anyDataOps (hop : opOf p.word ∈ anyDataOps) (harg : argOf p.word = 0#4)
    (h : decodeCommand c p = .ok i) : IsCommand c p.word i := by
  simp only [anyDataOps, List.mem_cons, List.not_mem_nil, or_false] at hop
  rcases hop with hop | hop | hop | hop <;>
    simp [decodeCommand, hop, harg] at h <;>
    subst h <;>
    exact .of_fields rfl rfl rfl hop harg rfl

/-- What decodes as a command word is a well-formed row with that word. -/
theorem decodeCommand_isCommand (h : decodeCommand c p = .ok i) : IsCommand c p.word i := by
  by_cases hD : opOf p.word = 0xD#4
  case pos =>
    simp [decodeCommand, hD] at h
    subst h
    exact ⟨rfl, _, rfl, op_append_rest hD⟩
  by_cases hE : opOf p.word = 0xE#4
  case pos =>
    simp [decodeCommand, hE] at h
    subst h
    exact ⟨rfl, _, rfl, op_append_rest hE⟩
  by_cases harg : argOf p.word = 0#4
  case neg => simp [decodeCommand, hD, hE, harg] at h
  rcases op_rows (opOf p.word) with hop | hop | hop | hop | hop | hop | hop
  · exact absurd hop hD
  · exact absurd hop hE
  · exact .of_plainOps hop harg h
  · exact .of_anyDataOps hop harg h
  · simp [decodeCommand, hop, harg] at h
    split_ifs at h with hd len
    cases h
    exact .of_fields (by simp [Instr.wf, len]) rfl rfl hop harg hd
  · simp [decodeCommand, hop, harg] at h
    split_ifs at h with hd len
    cases h
    exact .of_fields (by simp [Instr.wf, len]) rfl rfl hop harg hd
  · simp [decodeCommand, hop, harg] at h
    split_ifs at h with h0 h1 <;> cases h
    · exact .of_fields rfl rfl rfl hop harg h0
    · exact .of_fields rfl rfl rfl hop harg h1

end

end

/-! ### The obligations -/

/-- Settles O3: a message decodes by its header and type byte, a command word by its fields. -/
theorem decodeEncodeAgree : Obligations.DecodeEncodeAgree := by
  intro c i hw hi
  cases i using Instr.rowCases with
  | request ty f =>
    rw [encode_ofRequest]
    exact decodeMessage_of_wfRequest hw (by rwa [wf_ofRequest] at hi)
  | response ty f =>
    rw [encode_ofResponse]
    exact decodeMessage_of_wfResponse hw (by rwa [wf_ofResponse] at hi)
  | rxTransfer buf =>
    have len : buf.length = c.xferLen := by simpa [Instr.wf] using hi
    simp [encode, PortWord.ofWord, decode, decodeCommand, len]
  | fifoPushExt frame =>
    have len : frame.length ≤ 255 := by simpa [Instr.wf] using hi
    simp [encode, PortWord.ofWord, decode, decodeCommand, len]
  | _ => simp [encode, plainCommand, PortWord.ofWord, decode, decodeCommand, noData]

/-- Settles O4: what decodes is a command word with its row's fields, or a message of its row's shape. -/
theorem encodeOfDecoded : Obligations.EncodeOfDecoded := by
  intro c p i _ h
  cases p with
  | command p =>
    obtain ⟨wf, v, hi, hv⟩ := decodeCommand_isCommand h
    refine ⟨wf, nofun, ?_⟩
    rintro w ⟨⟩
    exact ⟨v, hi, hv⟩
  | message f =>
    rcases decodeMessage_cases h with ⟨ty, rfl, wf⟩ | ⟨ty, rfl, wf⟩
    · exact ⟨(wf_ofRequest c ty f).trans wf, by rintro g ⟨⟩; exact encode_ofRequest ty f, nofun⟩
    · exact ⟨(wf_ofResponse c ty f).trans wf, by rintro g ⟨⟩; exact encode_ofResponse ty f, nofun⟩

/-- Settles O1: a sound state passes the checks of a step; an idle port carries the word 0x0000. -/
theorem stepRunsDecoded : Obligations.StepRunsDecoded := by
  intro s i hw hs h
  refine ⟨(step_of_sound hw hs).2 i h, fun p rest hp => ?_, fun hp => ?_⟩
  · rw [State.nextItem, State.advance, hp]
    exact ⟨rfl, rfl⟩
  · rw [State.nextItem, hp] at h
    refine ⟨Except.ok.inj (h.symm.trans (decodeEncodeAgree s.cfg .nop hw rfl)), ?_⟩
    rw [State.advance, hp, List.tail_nil, ← hp]

/-- Settles O2, by evaluation of the eleven closed words. -/
theorem specWordsDecode : Obligations.SpecWordsDecode := by
  unfold Obligations.SpecWordsDecode
  decide

/-- Settles O6: the two rows have no other meaning than to stop. -/
theorem reservedRowsStop : Obligations.ReservedRowsStop := fun _ _ => ⟨rfl, rfl⟩

end Sys2Proof.Machine

/-! Who writes what (10_state.md R20 to R53): the obligation O58. A list of registers bounds what an operation writes;
the bounds of the shared operations add up to that of an instruction, and each register in it names the instruction as
one of its writers. -/

namespace Sys2Proof.Machine

/-- The registers O58 tells apart. -/
inductive Reg where
  | fsm | seg | queue | axes | pins
  | safe | microsteps | friction | master
  /-- `enc[i].cum` and `enc[i].last_raw`. -/
  | counts
  /-- `enc[i].origin` and `enc[i].base`. -/
  | origins
  | router | fifo | tx | pending
  /-- `cnt.router_ovf` and `cnt.unhandled`. -/
  | routing
  | poll | frameDrop | respDrop

section

variable {s t u : State} {v w : List Reg} {i : Instr}

/-- The register has in `t` what it has in `s`. -/
def Reg.Same (s t : State) : Reg → Prop
  | .fsm => t.fsm = s.fsm
  | .seg => t.seg = s.seg
  | .queue => t.q = s.q
  | .axes => t.ax = s.ax
  | .pins => t.pin = s.pin
  | .safe => t.ctl.safe = s.ctl.safe
  | .microsteps => t.ctl.microsteps = s.ctl.microsteps
  | .friction => t.ctl.frictionEn = s.ctl.frictionEn
  | .master => t.ctl.master = s.ctl.master
  | .counts => ∀ a, (t.enc.get a).cum = (s.enc.get a).cum ∧ (t.enc.get a).lastRaw = (s.enc.get a).lastRaw
  | .origins => ∀ a, (t.enc.get a).origin = (s.enc.get a).origin ∧ (t.enc.get a).base = (s.enc.get a).base
  | .router => t.rt = s.rt
  | .fifo => t.rf = s.rf
  | .tx => t.spi.tx = s.spi.tx
  | .pending => t.spi.pending = s.spi.pending
  | .routing => t.cnt.routerOvf = s.cnt.routerOvf ∧ t.cnt.unhandled = s.cnt.unhandled
  | .poll => t.cnt.poll = s.cnt.poll
  | .frameDrop => t.cnt.frameDrop = s.cnt.frameDrop
  | .respDrop => t.cnt.respDrop = s.cnt.respDrop

theorem Reg.Same.trans {r : Reg} (h : r.Same s t) (h' : r.Same t u) : r.Same s u := by
  cases r
  case counts => exact fun a => ⟨(h' a).1.trans (h a).1, (h' a).2.trans (h a).2⟩
  case origins => exact fun a => ⟨(h' a).1.trans (h a).1, (h' a).2.trans (h a).2⟩
  case routing => exact ⟨h'.1.trans h.1, h'.2.trans h.2⟩
  all_goals exact Eq.trans h' h

/-! ### Bounds on what an operation writes -/

/-- Of the registers, `t` differs from `s` in those of `w` at most; the configuration, the port and the draw of free
values are those of `s`. -/
structure Writes (w : List Reg) (s t : State) : Prop where
  cfg : t.cfg = s.cfg
  port : t.port = s.port
  free : t.free = s.free
  same : ∀ r, r ∉ w → r.Same s t

theorem Writes.mono (h : Writes v s t) (hv : v ⊆ w) : Writes w s t :=
  ⟨h.cfg, h.port, h.free, fun r hr => h.same r fun hm => hr (hv hm)⟩

theorem Writes.trans (h : Writes v s t) (h' : Writes w t u) : Writes (v ++ w) s u where
  cfg := h'.cfg.trans h.cfg
  port := h'.port.trans h.port
  free := h'.free.trans h.free
  same r hr := by
    rw [List.mem_append, not_or] at hr
    exact (h.same r hr.1).trans (h'.same r hr.2)

/-- Two operations within one bound. -/
theorem Writes.then (h : Writes w s t) (h' : Writes w t u) : Writes w s u := (h.trans h').mono (by simp)

theorem Writes.refl (w : List Reg) (s : State) : Writes w s s where
  cfg := rfl
  port := rfl
  free := rfl
  same r _ := by cases r <;> simp [Reg.Same]

theorem Writes.ok (h : Writes w s t) (v : OutVal) : Writes w s (t.ok v) :=
  h.then ⟨rfl, rfl, rfl, fun r _ => by cases r <;> simp [Reg.Same]⟩

/-! ### The engine -/

theorem setFsm_writes (f : Fsm) (s : State) : Writes [.fsm] s (s.setFsm f) :=
  ⟨rfl, rfl, rfl, fun r hr => by cases r <;> simp [Reg.Same] at hr ⊢⟩

theorem clearQueue_writes (s : State) : Writes [.queue] s s.clearQueue :=
  ⟨rfl, rfl, rfl, fun r hr => by cases r <;> simp [Reg.Same] at hr ⊢⟩

theorem stopAllAxes_writes (s : State) : Writes [.seg, .axes, .pins] s (stopAllAxes s) :=
  ⟨by simp, by simp, by simp, fun r hr => by cases r <;> simp [Reg.Same] at hr ⊢⟩

theorem beginNext_writes (chained : Bool) (s : State) : Writes [.seg, .queue, .axes, .pins] s (beginNext chained s) :=
  ⟨by simp, by simp, by simp, fun r hr => by cases r <;> simp [Reg.Same] at hr ⊢⟩

theorem enqueuedState_writes (g : MoveSegment) (s : State) : Writes [.fsm, .queue, .axes] s (enqueuedState g s) :=
  ⟨rfl, rfl, rfl, fun r hr => by cases r <;> simp [Reg.Same, enqueuedState] at hr ⊢⟩

theorem setFriction_writes (e : Byte) (s : State) : Writes [.fsm, .queue, .friction] s (setFriction e s) := by
  by_cases he : e = 0#8
  · rw [he, setFriction_of_off]
    exact ⟨rfl, rfl, rfl, fun r hr => by cases r <;> simp [Reg.Same] at hr ⊢⟩
  · rw [setFriction_of_on he]
    exact ⟨rfl, rfl, rfl, fun r hr => by cases r <;> simp [Reg.Same, frictionArmed] at hr ⊢⟩

/-! ### Responses -/

theorem pushResp_writes (f : List Byte) (s : State) : Writes [.fifo, .respDrop] s (s.pushResp f) := by
  rcases pushResp_eq f s with e | e <;> rw [e]
  · exact ⟨rfl, rfl, rfl, fun r hr => by cases r <;> simp [Reg.Same] at hr ⊢⟩
  · exact ⟨rfl, rfl, rfl, fun r hr => by cases r <;> simp [Reg.Same] at hr ⊢⟩

/-- The registers of a request that is dropped or answered without more. -/
abbrev Reg.answer : List Reg := [.fifo, .respDrop, .frameDrop]

theorem Writes.respond (h : Writes w s t) (hw : Reg.answer ⊆ w) (f : List Byte) : Writes w s (t.pushResp f) :=
  h.then ((pushResp_writes f t).mono fun _ hr => hw (by simp at hr ⊢; tauto))

theorem countFrameDrop_writes (s : State) : Writes [.frameDrop] s s.countFrameDrop :=
  ⟨rfl, rfl, rfl, fun r hr => by cases r <;> simp [Reg.Same, State.countFrameDrop] at hr ⊢⟩

theorem sendResponse_writes (ty : RespType) (f : List Byte) (s : State) :
    Writes Reg.answer s (sendResponse ty f s) := by
  unfold sendResponse
  split
  · exact ((Writes.refl _ s).respond (by simp) _).ok _
  · exact ((countFrameDrop_writes s).mono (by simp)).ok _

/-! ### A move's start and end -/

/-- The registers of a segment in progress. -/
abbrev Reg.motion : List Reg := [.fsm, .seg, .queue, .axes, .pins]

theorem startMove_writes (s : State) : Writes Reg.motion s (startMove s) := by
  rcases startMove_cases s with ⟨-, e⟩ | ⟨-, -, e⟩ | ⟨-, -, e⟩ <;> rw [e]
  · exact (setFsm_writes _ s).mono (by simp)
  · exact ((beginNext_writes false s).mono (by simp)).then ((setFsm_writes _ _).mono (by simp))
  · exact .refl _ s

theorem moveEnd_writes (fid status : Byte) (s : State) :
    Writes (Reg.motion ++ [.fifo, .respDrop]) s (moveEnd fid status s) := by
  have stopping : Writes Reg.motion s (stopAllAxes (s.setFsm .stopping)).clearQueue :=
    (((setFsm_writes _ s).mono (by simp)).then ((stopAllAxes_writes _).mono (by simp))).then
      ((clearQueue_writes _).mono (by simp))
  exact (stopping.trans (pushResp_writes _ _)).then ((setFsm_writes .idle _).mono (by simp))

/-! ### The ticks -/

theorem phases_writes (f : Axis → State → State) (hf : f = closePulse ∨ f = accumulate) (s : State) :
    Writes [.axes, .pins] s (s.forAxes f) := by
  rcases hf with rfl | rfl <;>
    exact ⟨by simp [State.forAxes], by simp [State.forAxes], by simp [State.forAxes],
      fun r hr => by cases r <;> simp [Reg.Same, State.forAxes] at hr ⊢⟩

theorem completionCheck_writes (s : State) : Writes (Reg.motion ++ [.fifo, .respDrop]) s (completionCheck s) := by
  rcases completionCheck_cases s with ⟨-, -, e⟩ | ⟨-, -, -, e⟩ | ⟨e, -⟩ <;> rw [e]
  · exact (beginNext_writes true s).mono (by simp)
  · have ended : Writes Reg.motion s ((stopAllAxes s).setFsm .done) :=
      ((stopAllAxes_writes s).mono (by simp)).then ((setFsm_writes _ _).mono (by simp))
    exact ended.trans (pushResp_writes _ _)
  · exact .refl _ s

theorem tickHf_writes (s : State) : Writes (Reg.motion ++ [.fifo, .respDrop]) s (tickHf s) := by
  have closed : Writes Reg.motion s (s.forAxes closePulse) := (phases_writes _ (.inl rfl) s).mono (by simp)
  rcases tickHf_cases s with ⟨-, e⟩ | ⟨-, e⟩ <;> rw [e]
  · exact closed.mono (by simp)
  · have moved : Writes Reg.motion s ((s.forAxes closePulse).forAxes accumulate) :=
      closed.then ((phases_writes _ (.inr rfl) _).mono (by simp))
    exact (moved.mono (by simp)).then (completionCheck_writes _)

theorem tickLf_writes (raw : PerAxis U32) (s : State) : Writes [.axes, .master, .counts] s (tickLf raw s) := by
  have ctl := tickLf_ctl_frame raw s
  have enc (a : Axis) := (tickLf_sampled raw s a).others
  refine ⟨by simp, by simp, by simp, fun r hr => ?_⟩
  cases r <;> simp [Reg.Same] at hr ⊢
  case safe => exact (congrArg Ctl.safe ctl :)
  case microsteps => exact (congrArg Ctl.microsteps ctl :)
  case friction => exact (congrArg Ctl.frictionEn ctl :)
  case origins => exact fun a => ⟨rfl, rfl⟩

/-! ### The requests -/

/-- The registers a request of each type may write (R181 to R191). -/
def requestWrites : ReqType → List Reg
  | .moveQueueAdd => [.fsm, .queue, .axes] ++ Reg.answer
  | .startMove | .moveEnd => Reg.motion ++ Reg.answer
  | .setOrigin => .origins :: Reg.answer
  | .microsteps => .microsteps :: Reg.answer
  | .autoFriction => [.fsm, .queue, .friction] ++ Reg.answer
  | .moveQueueStatus | .encoderStatus => Reg.answer
  | .ledControl | .home | .probeLevel => [.frameDrop]

theorem setOrigins_writes (m : Byte) (base : PerAxis U64) (s : State) : Writes [.origins] s (setOrigins m base s) := by
  refine ⟨by simp, by simp, by simp, fun r hr => ?_⟩
  cases r <;> simp [Reg.Same] at hr ⊢
  case counts =>
    intro a
    rw [setOrigins_enc]
    split <;> exact ⟨rfl, rfl⟩

theorem addSegment_writes (g : MoveSegment) (s : State) : Writes (requestWrites .moveQueueAdd) s (addSegment g s) := by
  have answered {status : Byte} {t : State} (h : Writes (requestWrites .moveQueueAdd) s t) :
      Writes (requestWrites .moveQueueAdd) s (respondAck .ackMoveQueueAdd g.fid status t) :=
    h.respond (by simp [requestWrites]) _
  by_cases safe : s.ctl.safe = false
  · rw [addSegment_of_notSafe g safe]
    exact answered (.refl _ s)
  · rw [Bool.not_eq_false] at safe
    by_cases full : s.q.count.toNat = s.cfg.qcap
    · rw [addSegment_of_full g safe full]
      exact answered (.refl _ s)
    · rw [addSegment_of_room g safe full]
      exact answered ((enqueuedState_writes g s).mono (by simp [requestWrites]))

theorem setMicrosteps_writes (fid : Byte) (m : U16) (s : State) :
    Writes (requestWrites .microsteps) s (setMicrosteps fid m s) := by
  unfold setMicrosteps
  split
  · have taken : Writes (requestWrites .microsteps) s (s.setCtl { s.ctl with microsteps := m }) :=
      ⟨rfl, rfl, rfl, fun r hr => by cases r <;> simp [Reg.Same, requestWrites] at hr ⊢⟩
    exact taken.respond (by simp [requestWrites]) _
  · exact (Writes.refl _ s).respond (by simp [requestWrites]) _

theorem onDecoded_writes (ty : ReqType) (f : List Byte) (r : Record) (s : State) :
    Writes (requestWrites ty) s (onDecoded ty f r s) := by
  cases ty with
  | moveQueueAdd => exact addSegment_writes _ s
  | moveQueueStatus => exact (Writes.refl _ s).respond (by simp [requestWrites]) _
  | startMove =>
    exact ((startMove_writes s).mono (by simp [requestWrites])).respond (by simp [requestWrites]) _
  | moveEnd => exact (moveEnd_writes _ _ s).mono (by simp [requestWrites])
  | setOrigin =>
    exact ((setOrigins_writes _ _ s).mono (by simp [requestWrites])).respond (by simp [requestWrites]) _
  | encoderStatus => exact (Writes.refl _ s).respond (by simp [requestWrites]) _
  | ledControl | home | probeLevel => exact ⟨rfl, rfl, rfl, fun r _ => by cases r <;> simp [Reg.Same, onDecoded]⟩
  | microsteps => exact setMicrosteps_writes _ _ s
  | autoFriction =>
    exact ((setFriction_writes _ s).mono (by simp [requestWrites])).respond (by simp [requestWrites]) _

theorem handle_writes (ty : ReqType) (f : List Byte) (s : State) : Writes (requestWrites ty) s (handle ty f s) := by
  rw [handle_eq_withDecoded]
  rcases withDecoded_cases ty f (onDecoded ty f) s with ⟨r, -, e⟩ | ⟨_, -, e⟩ <;> rw [e]
  · exact onDecoded_writes ty f r s
  · exact (countFrameDrop_writes s).mono (by cases ty <;> simp [requestWrites])

/-! ### The router -/

/-- The registers the router may write: its own, and those of every request it may dispatch (R170 to R174). -/
def Reg.routed : List Reg := [.router, .routing] ++ ReqType.all.flatMap requestWrites

theorem requestWrites_subset (ty : ReqType) : (requestWrites ty) ⊆ Reg.routed := fun r hr => by
  refine List.mem_append_right _ (List.mem_flatMap.2 ⟨ty, ?_, hr⟩)
  cases ty <;> decide

theorem setRt_writes (r : Router) (s : State) : Writes Reg.routed s (s.setRt r) :=
  ⟨rfl, rfl, rfl, fun r hr => by cases r <;> simp [Reg.Same, Reg.routed] at hr ⊢⟩

theorem dispatch_writes (f : List Byte) (s : State) : Writes Reg.routed s (dispatch f s) := by
  unfold dispatch
  split
  · exact (handle_writes _ f s).mono (requestWrites_subset _)
  · exact ⟨rfl, rfl, rfl, fun r hr => by cases r <;> simp [Reg.Same, Reg.routed, State.countUnhandled] at hr ⊢⟩

theorem makeRoom_writes (s : State) : Writes Reg.routed s (makeRoom s) := by
  refine ⟨by simp, by simp, by simp, fun r hr => ?_⟩
  unfold makeRoom
  split <;> cases r <;> simp [Reg.Same, Reg.routed, State.countOvf] at hr ⊢

theorem recognise_writes (s : State) : Writes Reg.routed s (recognise s) := by
  unfold recognise
  split
  · exact setRt_writes _ s
  · split
    · exact (setRt_writes _ s).then (dispatch_writes _ _)
    · exact .refl _ s

theorem routeByte_writes (b : Byte) (s : State) : Writes Reg.routed s (routeByte b s) :=
  ((makeRoom_writes s).then (setRt_writes _ _)).then (recognise_writes _)

theorem routeBytes_writes (bs : List Byte) (s : State) : Writes Reg.routed s (routeBytes bs s) := by
  induction bs generalizing s with
  | nil => exact .refl _ s
  | cons b bs ih => exact (routeByte_writes b s).then (ih _)

theorem transfer_writes (buf : List Byte) (s : State) : Writes (.poll :: Reg.routed) s (transfer buf s) := by
  unfold transfer
  split
  · exact ⟨rfl, rfl, rfl, fun r hr => by cases r <;> simp [Reg.Same, State.countPoll] at hr ⊢⟩
  · exact (routeBytes_writes buf s).mono (by simp)

/-! ### The FIFO and the SPI registers -/

theorem push_writes {f : Option (List Byte)} (h : s.push f = .ok t) : Writes [.fifo] s t := by
  rw [push_ok_eq h]
  exact ⟨rfl, rfl, rfl, fun r hr => by cases r <;> simp [Reg.Same] at hr ⊢⟩

theorem pop_writes {n : Nat} {p : Popped} (h : s.pop n = .ok p) : Writes [.fifo] s p.state := by
  rcases pop_state h with ⟨-, e⟩ | ⟨-, e⟩ <;> rw [e]
  · exact .refl _ s
  · exact ⟨rfl, rfl, rfl, fun r hr => by cases r <;> simp [Reg.Same] at hr ⊢⟩

theorem load_writes (h : execLoadPending s = .next t) : Writes [.fifo, .pending] s t := by
  have tx : t.spi.tx = s.spi.tx := by
    unfold execLoadPending at h
    split at h
    · split at h <;> cases h <;> rfl
    · cases h; rfl
  have e := load_eq h
  refine ⟨by rw [e], by rw [e], by rw [e], fun r hr => ?_⟩
  cases r
  case tx => exact tx
  case fifo | pending => simp at hr
  all_goals rw [e]; simp [Reg.Same]

/-! ### The writers of a register -/

/-- The instructions O58 names for a register. -/
def Reg.Writer (i : Instr) : Reg → Prop
  | .fsm => mayRequestAny [.moveQueueAdd, .startMove, .moveEnd, .autoFriction] i ∨ i = .tickHf ∨ i = .estop
  | .seg => mayRequestAny [.startMove, .moveEnd] i ∨ i = .tickHf ∨ i = .estop
  | .queue => mayRequestAny [.moveQueueAdd, .startMove, .moveEnd, .autoFriction] i ∨ i = .tickHf ∨ i = .estop
  | .axes =>
    mayRequestAny [.moveQueueAdd, .startMove, .moveEnd] i ∨ i = .tickHf ∨ (∃ raw, i = .tickLf raw) ∨ i = .estop
  | .pins => mayRequestAny [.startMove, .moveEnd] i ∨ i = .tickHf ∨ i = .estop
  | .safe => i = .setSafe0 ∨ i = .setSafe1
  | .microsteps => mayRequest .microsteps i
  | .friction => mayRequest .autoFriction i
  | .master | .counts => ∃ raw, i = .tickLf raw
  | .origins => mayRequest .setOrigin i
  | .router | .routing => (∃ b, i = .rxByte b) ∨ ∃ b, i = .rxTransfer b
  | .fifo => mayRespond i ∨ (∃ c, i = .fifoPop c) ∨ (∃ f, i = .fifoPushExt f) ∨ i = .loadPending
  | .tx => ∃ st, i = .prime st
  | .pending => i = .loadPending ∨ ∃ st, i = .prime st
  | .poll => ∃ b, i = .rxTransfer b
  | .frameDrop => mayRequestAny ReqType.all i ∨ ∃ ty f, i = Instr.ofResponse ty f
  | .respDrop => mayRespond i

/-- What the instruction wrote is bounded by registers it is a writer of. -/
def Attributed (i : Instr) (s t : State) : Prop := ∃ w, Writes w s t ∧ ∀ r ∈ w, r.Writer i

theorem Attributed.writer (h : Attributed i s t) (r : Reg) (hr : ¬ r.Same s t) : r.Writer i := by
  obtain ⟨w, writes, writers⟩ := h
  exact writers r (by_contra fun hm => hr (writes.same r hm))

theorem Attributed.frame (h : Attributed i s t) : t.cfg = s.cfg ∧ t.port = s.port ∧ t.free = s.free := by
  obtain ⟨_, writes, -⟩ := h
  exact ⟨writes.cfg, writes.port, writes.free⟩

theorem mayRequest_ofRequest (ty : ReqType) (f : List Byte) : mayRequest ty (.ofRequest ty f) := by
  cases ty <;> exact ⟨f, rfl⟩

/-- An instruction that may run a handler is a writer of all that the handler may write. -/
theorem writer_of_mayRequest {ty : ReqType} (h : mayRequest ty i) {r : Reg} (hr : r ∈ requestWrites ty) :
    r.Writer i := by
  cases ty <;> cases r <;> simp [requestWrites] at hr <;>
    simp [Reg.Writer, mayRespond, mayRequestAny, ReqType.all, h]

theorem writer_of_routed (router : (∃ b, i = .rxByte b) ∨ ∃ b, i = .rxTransfer b) {r : Reg} (hr : r ∈ Reg.routed) :
    r.Writer i := by
  have any (ty : ReqType) : mayRequest ty i := by
    rcases router with ⟨b, rfl⟩ | ⟨b, rfl⟩ <;> trivial
  rcases List.mem_append.1 hr with hr | hr
  · simp at hr
    rcases hr with rfl | rfl <;> exact router
  · obtain ⟨ty, -, hr⟩ := List.mem_flatMap.1 hr
    exact writer_of_mayRequest (any ty) hr

theorem exec_ofResponse (ty : RespType) (f : List Byte) (s : State) :
    exec (Instr.ofResponse ty f) s = .next (sendResponse ty f s) := by
  cases ty <;> rfl

theorem exec_attributed (hi : i ≠ .reset) (he : exec i s = .next t) : Attributed i s t := by
  cases i using Instr.rowCases with
  | nop => cases he; exact ⟨[], (Writes.refl _ s).ok _, by simp⟩
  | rxByte b =>
    cases he
    exact ⟨_, (routeByte_writes b s).ok _, fun r hr => writer_of_routed (.inl ⟨b, rfl⟩) hr⟩
  | rxTransfer buf =>
    cases he
    refine ⟨_, (transfer_writes buf s).ok _, fun r hr => ?_⟩
    rcases List.mem_cons.1 hr with rfl | hr
    · exact ⟨buf, rfl⟩
    · exact writer_of_routed (.inr ⟨buf, rfl⟩) hr
  | tickHf => cases he; exact ⟨_, (tickHf_writes s).ok _, by simp [Reg.Writer, mayRespond]⟩
  | tickLf raw => cases he; exact ⟨_, (tickLf_writes raw s).ok _, by simp [Reg.Writer]⟩
  | estop => cases he; exact ⟨_, (moveEnd_writes _ _ s).ok _, by simp [Reg.Writer, mayRespond]⟩
  | fifoPop n =>
    simp only [exec, execFifoPop] at he
    split at he <;> cases he
    · exact ⟨_, (pop_writes ‹_›).ok _, by simp [Reg.Writer]⟩
    · exact ⟨[], ⟨rfl, rfl, rfl, (Writes.refl [] s).same⟩, by simp⟩
  | loadPending => exact ⟨_, load_writes he, by simp [Reg.Writer]⟩
  | prime st =>
    cases he
    exact ⟨[.tx, .pending], ⟨rfl, rfl, rfl, fun r hr => by cases r <;> simp [Reg.Same] at hr ⊢⟩, by simp [Reg.Writer]⟩
  | statusSelect n => cases he; exact ⟨[], (Writes.refl _ s).ok _, by simp⟩
  | fifoPushExt frame =>
    simp only [exec, execFifoPushExt] at he
    split at he <;> cases he
    · exact ⟨_, (push_writes ‹_›).ok _, by simp [Reg.Writer]⟩
    · exact ⟨[], ⟨rfl, rfl, rfl, (Writes.refl [] s).same⟩, by simp⟩
  | setSafe0 | setSafe1 =>
    cases he
    exact ⟨[.safe], ⟨rfl, rfl, rfl, fun r hr => by cases r <;> simp [Reg.Same, setSafe] at hr ⊢⟩, by simp [Reg.Writer]⟩
  | fifoCount => cases he; exact ⟨[], (Writes.refl _ s).ok _, by simp⟩
  | reset => exact absurd rfl hi
  | reservedD rest => cases he
  | reservedE rest => cases he
  | request ty f =>
    rw [exec_ofRequest] at he
    cases he
    exact ⟨_, (handle_writes ty f s).ok _, fun r hr => writer_of_mayRequest (mayRequest_ofRequest ty f) hr⟩
  | response ty f =>
    rw [exec_ofResponse] at he
    cases he
    have response : ∃ ty' f', Instr.ofResponse ty f = Instr.ofResponse ty' f' := ⟨ty, f, rfl⟩
    exact ⟨_, sendResponse_writes ty f s, by simp [Reg.Writer, mayRespond, response]⟩

end

/-! ### The obligation -/

/-- Settles O58: what an instruction wrote is bounded by registers it is a writer of (`exec_attributed`). -/
theorem registerWriters : Obligations.RegisterWriters := by
  intro i s t he
  by_cases hi : i = .reset
  · subst hi
    cases he
    exact ⟨rfl, rfl, fun h => absurd rfl h⟩
  have attributed := exec_attributed hi he
  obtain ⟨cfg, port, free⟩ := attributed.frame
  refine ⟨cfg, port, fun _ => ⟨attributed.writer .fsm, attributed.writer .seg, attributed.writer .queue,
    attributed.writer .axes, attributed.writer .pins, attributed.writer .safe, attributed.writer .microsteps,
    attributed.writer .friction, attributed.writer .master, fun a changed => ?counts, fun a changed => ?origins,
    attributed.writer .router, attributed.writer .fifo, attributed.writer .tx, attributed.writer .pending,
    fun changed => ?routing, attributed.writer .poll, attributed.writer .frameDrop, attributed.writer .respDrop,
    free⟩⟩
  case counts => exact attributed.writer .counts fun same => changed.elim (· (same a).1) (· (same a).2)
  case origins => exact attributed.writer .origins fun same => changed.elim (· (same a).1) (· (same a).2)
  case routing => exact attributed.writer .routing fun same => changed.elim (· same.1) (· same.2)

end Sys2Proof.Machine

/-! Good states (10_state.md R26 to R48, 60_exceptions.md R324): the obligations O54, O55 and O56. The response FIFO
with the SPI registers and the control registers have invariants that `Closed` carries, as the queue, the axes and the
engine have; the router's does not survive an arbitrary write of the router, so it follows the byte rule. -/

namespace Sys2Proof.Machine

section

variable {c : Config} {s t : State} {i : Instr}

/-! ### Reset (R350) -/

/-- An empty accumulator has no header to keep and no tail to exclude. -/
theorem RouterOk.empty {r : Router} (hl : r.buf.length = c.routerCap) (h0 : r.idx = 0#8) : RouterOk c r where
  buf := hl
  idx := by simp [h0]
  header h := absurd h0 h
  tail k _ hk := by simp [h0] at hk

theorem FifoOk.empty (hw : c.wf = true) {slots : List FifoSlot} (hl : slots.length = c.respFifoCap)
    (hd : ∀ t ∈ slots, t.data.length = frameMax) : FifoOk c ⟨slots, 0#8, 0#8⟩ where
  slots := hl
  data := hd
  head := Config.respFifoCap_pos hw
  count := Nat.zero_le _
  lens j hj := absurd hj (Nat.not_lt_zero j)

theorem Config.microstepReset_bounds (h : c.wf = true) : 1 ≤ c.microstepReset ∧ c.microstepReset ≤ microstepMax := by
  simp [Config.wf, Config.numbersOk] at h
  omega

/-- A reset state is good, whatever R350 leaves unspecified holds. -/
theorem resetWithContents_good (hw : c.wf = true) {u : ResetContents} (hu : u.Fits c) (port : List PortItem)
    (trace : List Event) (free : Nat) : (State.resetWithContents c u port trace free).Good where
  cfg := hw
  queue := .empty hw hu.segments
  axes i := (PerAxis.get_same AxisState.zero i).symm ▸ .zero c
  engine := (resting_of_stopped rfl rfl (fun i => by cases i <;> exact ⟨rfl, rfl⟩) (.inl ⟨rfl, rfl⟩)).engineOk
  fifo := .empty hw hu.frames hu.data
  router := .empty List.length_replicate rfl
  spi := ⟨hu.pending, fun h => absurd (h.symm.trans hu.absent) (by decide), hu.tx⟩
  control := {
    lastRaw := fun i => by cases i <;> exact Nat.two_pow_pos _
    microsteps := by
      have reset : (BitVec.ofNat 16 c.microstepReset).toNat = c.microstepReset :=
        Nat.mod_eq_of_lt (Config.microstepReset_lt hw)
      exact reset.symm ▸ Config.microstepReset_bounds hw }

theorem resetState_good (hw : s.cfg.wf = true) : (resetState s).Good := by
  rw [resetState_eq_resetWithContents]
  exact resetWithContents_good hw (.free _ _) ..

/-! ### The response FIFO and the SPI registers (R46 to R48, R200) -/

/-- The invariants of the FIFO and the SPI registers under an accepted configuration: LOAD_PENDING passes a frame from
the one to the other. -/
structure HandshakeInv (s : State) : Prop where
  cfg : s.cfg.wf = true
  fifo : FifoOk s.cfg s.rf
  spi : SpiOk s.cfg s.spi

theorem HandshakeInv.congr (h : HandshakeInv s) (hc : t.cfg = s.cfg) (hf : t.rf = s.rf) (hp : t.spi = s.spi) :
    HandshakeInv t :=
  ⟨hc ▸ h.cfg, by rw [hc, hf]; exact h.fifo, by rw [hc, hp]; exact h.spi⟩

/-- A push that succeeds had a frame that fits and room for it (R201). -/
theorem push_ok_cases {f : List Byte} (h : s.push (some f) = .ok t) :
    1 ≤ f.length ∧ f.length ≤ 42 ∧ s.rf.count.toNat ≠ s.cfg.respFifoCap := by
  simp only [State.push, frameMax] at h
  split_ifs at h with hlen hfull
  exact ⟨by omega, by omega, hfull⟩

theorem HandshakeInv.push {f : List Byte} (h : HandshakeInv s) (hp : s.push (some f) = .ok t) : HandshakeInv t := by
  obtain ⟨h1, h2, room⟩ := push_ok_cases hp
  rw [push_eq h1 h2 room] at hp
  cases hp
  exact ⟨h.cfg, (h.fifo.pushed h.cfg h1 h2 (lt_of_le_of_ne h.fifo.count room)).2, h.spi⟩

theorem HandshakeInv.respond (h : HandshakeInv s) (ty : RespType) (r : Record) :
    HandshakeInv (s.pushResp (encodeResp s.cfg ty r)) :=
  ⟨by simpa using h.cfg, by simpa using respond_fifoOk h.cfg h.fifo ty r, by simpa using h.spi⟩

theorem HandshakeInv.pushMoveEnd (h : HandshakeInv s) (fid status : Byte) : HandshakeInv (pushMoveEnd fid status s) :=
  h.respond _ _

theorem HandshakeInv.pop {n : Nat} {p : Popped} (h : HandshakeInv s) (hp : s.pop n = .ok p) : HandshakeInv p.state := by
  rcases pop_state hp with ⟨-, e⟩ | ⟨filled, e⟩ <;> rw [e]
  · exact h
  · have : 0 < s.rf.count.toNat := Nat.pos_of_ne_zero fun h0 => filled (BitVec.eq_of_toNat_eq h0)
    exact ⟨h.cfg, (h.fifo.popped h.cfg this).2, h.spi⟩

/-- A loaded frame is one the FIFO held, of 1 to FRAME_MAX bytes (R206). -/
theorem HandshakeInv.load (h : HandshakeInv s) (he : execLoadPending s = .next t) : HandshakeInv t := by
  change exec .loadPending s = .next t at he
  by_cases kept : s.spi.pending.valid = true ∨ s.held = []
  · rw [exec_loadPending_of_kept kept] at he
    cases he
    exact h.congr rfl rfl rfl
  · rw [not_or, Bool.not_eq_true] at kept
    obtain ⟨absent, filled⟩ := kept
    obtain ⟨f, rest, held⟩ := List.exists_cons_of_ne_nil filled
    rw [exec_loadPending_of_held h.fifo absent held] at he
    cases he
    rcases h.fifo.pop_cases 42 with ⟨empty, -⟩ | ⟨g, gs, heldG, h1, h2, -⟩
    · exact absurd empty filled
    · obtain ⟨rfl, -⟩ := List.cons.inj (held.symm.trans heldG)
      have length : (BitVec.ofNat 8 f.length).toNat = f.length := Nat.mod_eq_of_lt (by omega)
      refine ⟨h.cfg, (h.fifo.popped h.cfg (count_pos_of_held held)).2, ?_, fun _ => ?_, h.spi.tx⟩
      · have := h.spi.data
        rw [← this]
        exact overlay_length (by rw [this]; exact h2)
      · exact length.symm ▸ ⟨h1, h2⟩

theorem primeFn_length (c : Config) (st : Byte) (p : Option (List Byte)) (cap : Nat) :
    (primeFn c st p cap).buf.length = cap := by
  have none_length : (primeFn c st none cap).buf.length = cap := by
    rw [(primeFn_none c st cap).1, List.length_replicate]
  rcases p with _ | f
  · exact none_length
  · by_cases h0 : f.length = 0
    · have empty : primeFn c st (some f) cap = primeFn c st none cap := if_pos h0
      rw [empty, none_length]
    · by_cases fits : f.length ≤ cap
      · rw [primeFn_of_fits (by omega) fits, List.length_append, List.length_replicate]
        omega
      · rw [primeFn_of_long (by omega), List.length_replicate]

/-- PRIME fills the transmit buffer and can only consume the pending response (R207). -/
theorem HandshakeInv.prime {st : Byte} (h : HandshakeInv s) (he : execPrime st s = .next t) : HandshakeInv t := by
  change exec (.prime st) s = .next t at he
  rw [exec_prime] at he
  cases he
  refine ⟨h.cfg, h.fifo, ?_, ?_, primeFn_length ..⟩ <;> rw [primedState_pending]
  · exact h.spi.data
  · exact fun hv => h.spi.len (Bool.and_elim_left hv)

theorem HandshakeInv.moveEnd (h : HandshakeInv s) (fid status : Byte) : HandshakeInv (moveEnd fid status s) := by
  have cleared : HandshakeInv (stopAllAxes (s.setFsm .stopping)).clearQueue := h.congr (by simp) (by simp) (by simp)
  exact (cleared.pushMoveEnd fid status).congr rfl rfl rfl

theorem HandshakeInv.completionCheck (h : HandshakeInv s) : HandshakeInv (completionCheck s) := by
  rcases completionCheck_cases s with ⟨-, -, e⟩ | ⟨-, -, -, e⟩ | ⟨e, -⟩ <;> rw [e]
  · exact h.congr (by simp) (by simp) (by simp)
  · have stopped : HandshakeInv ((stopAllAxes s).setFsm .done) := h.congr (by simp) (by simp) (by simp)
    exact stopped.pushMoveEnd _ _
  · exact h

theorem HandshakeInv.tickHf (h : HandshakeInv s) : HandshakeInv (tickHf s) := by
  rcases tickHf_cases s with ⟨-, e⟩ | ⟨-, e⟩ <;> rw [e]
  · exact h.congr (by simp [State.forAxes]) (by simp [State.forAxes]) (by simp [State.forAxes])
  · exact HandshakeInv.completionCheck
      (h.congr (by simp [State.forAxes]) (by simp [State.forAxes]) (by simp [State.forAxes]))

theorem handshakeInv_closed : Closed HandshakeInv where
  ok _ _ h := h.congr rfl rfl rfl
  raise _ _ h := h.congr rfl rfl rfl
  counters _ _ h := h.congr rfl rfl rfl
  router _ _ h := h.congr rfl rfl rfl
  emit _ _ _ h := h.congr rfl rfl rfl
  respond ty r _ h := h.respond ty r
  push _ _ _ h := h.push
  pop _ _ _ h := h.pop
  load _ _ h := h.load
  prime _ _ _ h := h.prime
  enqueue _ _ _ h he := by rw [enqueue_ok_eq he]; exact h.congr rfl rfl rfl
  start _ h := h.congr (by simp) (by simp) (by simp)
  stop fid status _ h := h.moveEnd fid status
  origins _ _ _ h := h.congr (by simp) (by simp) (by simp)
  microsteps _ _ h _ := h.congr rfl rfl rfl
  friction _ _ h := h.congr (by simp) (by simp) (by simp)
  safe _ _ h := h.congr rfl rfl rfl
  hf _ h := h.tickHf
  lf _ _ h := h.congr (by simp) (by simp) (by simp)
  reset _ h := ⟨(resetState_good h.cfg).cfg, (resetState_good h.cfg).fifo, (resetState_good h.cfg).spi⟩
  advance _ h := h.congr rfl rfl rfl

/-! ### The encoders and the microstep factor (R38, R40) -/

/-- Their invariant under an accepted configuration, which bounds the factor after a reset. -/
structure ControlInv (s : State) : Prop where
  cfg : s.cfg.wf = true
  control : ControlOk s

/-- It reads the last samples and the factor. -/
theorem ControlInv.congr (h : ControlInv s) (hc : t.cfg = s.cfg)
    (he : ∀ i, (t.enc.get i).lastRaw = (s.enc.get i).lastRaw) (hm : t.ctl.microsteps = s.ctl.microsteps) :
    ControlInv t :=
  ⟨hc ▸ h.cfg, fun i => by rw [he, hc]; exact h.control.lastRaw i, by rw [hm]; exact h.control.microsteps⟩

theorem ControlInv.of_frame (h : ControlInv s) (hc : t.cfg = s.cfg) (he : t.enc = s.enc) (hl : t.ctl = s.ctl) :
    ControlInv t :=
  h.congr hc (fun i => by rw [he]) (by rw [hl])

theorem ControlInv.setMicrosteps {m : U16} (h : ControlInv s) (hm : microstepsOk m = true) :
    ControlInv (s.setCtl { s.ctl with microsteps := m }) :=
  ⟨h.cfg, h.control.lastRaw, (microstepsOk_iff m).1 hm⟩

/-- A sample is below `2^ENC_WIDTH` (R281). -/
theorem ControlInv.tickLf (h : ControlInv s) (raw : PerAxis U32) : ControlInv (tickLf raw s) := by
  refine ⟨by simpa using h.cfg, fun i => ?_, ?_⟩
  · rw [(tickLf_sampled raw s i).lastRaw, tickLf_cfg]
    exact Nat.mod_lt _ (Nat.two_pow_pos _)
  · have : (Machine.tickLf raw s).ctl.microsteps = s.ctl.microsteps :=
      (congrArg Ctl.microsteps (tickLf_ctl_frame raw s) :)
    rw [this]
    exact h.control.microsteps

theorem controlInv_closed : Closed ControlInv where
  ok _ _ h := h.of_frame rfl rfl rfl
  raise _ _ h := h.of_frame rfl rfl rfl
  counters _ _ h := h.of_frame rfl rfl rfl
  router _ _ h := h.of_frame rfl rfl rfl
  emit _ _ _ h := h.of_frame rfl rfl rfl
  respond _ _ _ h := h.of_frame (by simp) (by simp) (by simp)
  push _ _ _ h he := by rw [push_ok_eq he]; exact h.of_frame rfl rfl rfl
  pop _ _ _ h hp := by rcases pop_state hp with ⟨-, e⟩ | ⟨-, e⟩ <;> rw [e] <;> exact h.of_frame rfl rfl rfl
  load _ _ h he := by rw [load_eq he]; exact h.of_frame rfl rfl rfl
  prime _ _ _ h he := by rw [prime_eq he]; exact h.of_frame rfl rfl rfl
  enqueue _ _ _ h he := by rw [enqueue_ok_eq he]; exact h.of_frame rfl rfl rfl
  start _ h := h.of_frame (by simp) (by simp) (by simp)
  stop _ _ _ h := h.of_frame (by simp) (by simp) (by simp)
  origins _ _ _ h := h.congr (by simp) (fun i => by rw [setOrigins_enc]; split <;> rfl) (by simp)
  microsteps _ _ h hm := h.setMicrosteps hm
  friction e s h := h.congr (by simp) (fun i => by simp) ((setFriction_writes e s).same .microsteps (by simp))
  safe _ _ h := h.congr rfl (fun _ => rfl) rfl
  hf _ h := h.of_frame (by simp) (by simp) (by simp)
  lf raw _ h := h.tickLf raw
  reset _ h := ⟨(resetState_good h.cfg).cfg, (resetState_good h.cfg).control⟩
  advance _ h := h.of_frame rfl rfl rfl

/-! ### The router (R45, R170) -/

/-- The byte rule leaves an empty accumulator, or one more byte of a candidate that is still open. -/
theorem RouterOk.routeByte (hr : RouterOk s.cfg s.rt) (hw : s.cfg.wf = true) (b : Byte) :
    RouterOk s.cfg (routeByte b s).rt := by
  obtain ⟨hr', room, -⟩ := makeRoom_spec hw hr
  have hw' : (makeRoom s).cfg.wf = true := by rwa [makeRoom_cfg]
  rw [← makeRoom_cfg s] at hr' room ⊢
  obtain ⟨discard, complete, keep⟩ := recognise_appendByte (b := b) hr' room hw' rfl
  have emptied : RouterOk (makeRoom s).cfg (dropAccumulation (Machine.appendByte b (makeRoom s))).rt :=
    .empty (by simpa using hr'.buf) rfl
  rw [Machine.routeByte]
  by_cases header : byteAt ((makeRoom s).accumulated ++ [b]) 0 = (makeRoom s).cfg.hdrReq
  · by_cases tail : 4 ≤ ((makeRoom s).accumulated ++ [b]).length ∧ b = (makeRoom s).cfg.tailReq
    · rw [complete header tail.1 tail.2, dispatch_rt]
      exact emptied
    · rw [keep header tail]
      exact hr'.appendByte room hw' header tail
  · rw [discard header]
    exact emptied

theorem RouterOk.routeBytes (hr : RouterOk s.cfg s.rt) (hw : s.cfg.wf = true) (bs : List Byte) :
    RouterOk s.cfg (routeBytes bs s).rt := by
  induction bs generalizing s with
  | nil => exact hr
  | cons b bs ih =>
    have := hr.routeByte hw b
    rw [← routeByte_cfg b s] at this hw ⊢
    exact ih this hw

theorem RouterOk.transfer (hr : RouterOk s.cfg s.rt) (hw : s.cfg.wf = true) (buf : List Byte) :
    RouterOk s.cfg (transfer buf s).rt := by
  unfold Machine.transfer
  split
  · exact hr
  · exact hr.routeBytes hw buf

/-- Only the router operations and RESET write the router. -/
theorem RouterOk.exec (hr : RouterOk s.cfg s.rt) (hw : s.cfg.wf = true) (he : exec i s = .next t) :
    RouterOk t.cfg t.rt := by
  by_cases hi : i = .reset
  · subst hi
    cases he
    exact (resetState_good hw).router
  have attributed := exec_attributed hi he
  rw [attributed.frame.1]
  by_cases same : t.rt = s.rt
  · rw [same]
    exact hr
  · rcases attributed.writer .router same with ⟨b, rfl⟩ | ⟨buf, rfl⟩ <;> cases he
    · exact hr.routeByte hw b
    · exact hr.transfer hw buf

/-- Every operation keeps a good state good. -/
theorem State.Good.exec (h : s.Good) (he : exec i s = .next t) : t.Good where
  cfg := (queueInv_closed.exec ⟨h.cfg, h.queue⟩ he).cfg
  queue := (queueInv_closed.exec ⟨h.cfg, h.queue⟩ he).queue
  axes := (axesInv_closed.exec ⟨h.cfg, h.axes⟩ he).axes
  engine := engineOk_closed.exec h.engine he
  fifo := (handshakeInv_closed.exec ⟨h.cfg, h.fifo, h.spi⟩ he).fifo
  router := h.router.exec h.cfg he
  spi := (handshakeInv_closed.exec ⟨h.cfg, h.fifo, h.spi⟩ he).spi
  control := (controlInv_closed.exec ⟨h.cfg, h.control⟩ he).control

/-- What stands on the port plays no part in a good state (R22). -/
theorem State.Good.advance (h : s.Good) : s.advance.Good :=
  ⟨h.cfg, h.queue, h.axes, h.engine.congr rfl rfl rfl rfl rfl, h.fifo, h.router, h.spi, h.control.1, h.control.2⟩

end

/-! ### The obligations -/

/-- Settles O54: a step runs the decoded operation, and every operation keeps the parts of a good state. -/
theorem goodInvariant : Obligations.GoodInvariant := by
  intro s t h hs
  obtain ⟨-, -, i, -, he⟩ := step_next hs
  exact h.advance.exec he

/-- Settles O55: a good state passes the checks of a step, and every row but the reserved two runs; a state that
passes them is sound. -/
theorem goodStepAnswers : Obligations.GoodStepAnswers := by
  refine ⟨fun s h => ?answers, fun s hw hb unsound => ?faults⟩
  case answers =>
    obtain ⟨illegal, runs⟩ := step_of_sound h.cfg h.sound
    cases hd : decode s.cfg s.nextItem with
    | error e => exact .inr (.inl ⟨e, rfl, illegal e hd⟩)
    | ok i =>
      rw [runs i hd]
      by_cases hi : IsOperation i
      · exact .inl (exec_of_isOperation hi _)
      · rcases (not_isOperation_iff i).1 hi with ⟨rest, rfl⟩ | ⟨rest, rfl⟩
        · exact .inr (.inr (.inl ⟨rest, rfl, rfl⟩))
        · exact .inr (.inr (.inr ⟨rest, rfl, rfl⟩))
  case faults =>
    rcases step_cases s with ⟨-, sound, -⟩ | ⟨hn, -⟩ | ⟨-, hn, -⟩ | ⟨-, -, -, e | e⟩
    · exact absurd sound unsound
    · exact absurd (hw.symm.trans hn) (by decide)
    · exact absurd (hb.symm.trans hn) (by decide)
    · exact ⟨_, e⟩
    · exact ⟨_, e⟩

/-- Settles O56: both are reset states; that TC is an accepted configuration is evaluated. -/
theorem powerOnIsGood : Obligations.PowerOnIsGood := by
  have powerOn (c : Config) (hw : c.wf = true) : (State.resetWith c).Good := by
    rw [resetWith_eq_resetWithContents]
    exact resetWithContents_good hw (.zero c) ..
  exact ⟨powerOn .tc (by decide), powerOn⟩

end Sys2Proof.Machine

/-! A move segment and its frame, a frame fed byte by byte, and the response rows (40_codec.md R142, R145,
41_router_dispatch.md R170, R172, 42_fifo_handshake.md R202): the obligations O13, O15 and O35. -/

namespace Sys2Proof.Machine

section

variable {c : Config} {s : State} {g : MoveSegment}

/-! ### Move segments (R106, R145) -/

/-- An unsigned field holds the value of a register of its width. -/
theorem fieldFits_unsigned {name : FieldName} {off w n : Nat} (h : n < 2 ^ (8 * w)) :
    FieldFits (.unsigned name off w) n :=
  ⟨⟨Int.natCast_nonneg n, Int.ofNat_lt.2 h⟩, fun _ => BitVec.and_allOnes⟩

theorem recordOfSegment_get_dirMask (g : MoveSegment) :
    (recordOfSegment g).get .dirMask = (g.dirMask &&& 0x07#8).toNat := rfl

theorem recordOfSegment_get_vel (g : MoveSegment) (i : Axis) :
    (recordOfSegment g).get (.vel i) = (g.vel.get i).toNat := by cases i <;> rfl

theorem recordOfSegment_get_steps (g : MoveSegment) (i : Axis) :
    (recordOfSegment g).get (.steps i) = (g.steps.get i).toNat := by cases i <;> rfl

theorem recordOfSegment_get_kp (g : MoveSegment) (i : Axis) :
    (recordOfSegment g).get (.kp i) = (g.kp.get i).toNat := by cases i <;> rfl

theorem recordOfSegment_get_ki (g : MoveSegment) (i : Axis) :
    (recordOfSegment g).get (.ki i) = (g.ki.get i).toNat := by cases i <;> rfl

theorem recordOfSegment_get_kd (g : MoveSegment) (i : Axis) :
    (recordOfSegment g).get (.kd i) = (g.kd.get i).toNat := by cases i <;> rfl

theorem recordOfSegment_fits_axis {i : Axis} (hv : (g.vel.get i).toNat < 2 ^ 16) {d : Field}
    (hd : d ∈ Layout.moveAxisFields i) : FieldFits d ((recordOfSegment g).get d.name) := by
  simp only [Layout.moveAxisFields, List.mem_cons, List.not_mem_nil, or_false] at hd
  rcases hd with rfl | rfl | rfl | rfl | rfl
  · exact recordOfSegment_get_vel g i ▸ fieldFits_unsigned hv
  · exact recordOfSegment_get_steps g i ▸ fieldFits_unsigned (g.steps.get i).isLt
  · exact recordOfSegment_get_kp g i ▸ fieldFits_unsigned (g.kp.get i).isLt
  · exact recordOfSegment_get_ki g i ▸ fieldFits_unsigned (g.ki.get i).isLt
  · exact recordOfSegment_get_kd g i ▸ fieldFits_unsigned (g.kd.get i).isLt

/-- With velocities of 16 bits the record of a segment is in the range of the default layout. -/
theorem recordOfSegment_fits (hv : ∀ i, (g.vel.get i).toNat < 2 ^ 16) :
    RecordFits Layout.defaultReq.moveQueueAdd (recordOfSegment g) := by
  refine ⟨rfl, fun d hd => ?_⟩
  simp only [Layout.defaultReq, List.mem_cons, List.mem_append] at hd
  rcases hd with rfl | (hd | hd) | hd
  · exact recordOfSegment_get_dirMask g ▸ fieldFits_unsigned (BitVec.isLt _)
  all_goals exact recordOfSegment_fits_axis (hv _) hd

/-- A register is the cut of its value to its width. -/
theorem Record.bits_of_get {r : Record} {n : FieldName} {w : Nat} {v : BitVec w} (h : r.get n = v.toNat) :
    r.bits w n = v := by
  rw [Record.bits, h, BitVec.ofInt_natCast, BitVec.ofNat_toNat, BitVec.setWidth_eq]

theorem segmentOf_recordOfSegment (g : MoveSegment) :
    segmentOf (recordOfSegment g) = { g with dirMask := g.dirMask &&& 0x07#8 } := by
  have of_get {α : Type} (p : PerAxis α) {f : Axis → α} (h : ∀ i, f i = p.get i) : PerAxis.of f = p :=
    PerAxis.ext_get fun i => (PerAxis.get_of f i).trans (h i)
  rw [segmentOf, of_get g.steps fun i => Record.bits_of_get (recordOfSegment_get_steps g i),
    of_get g.vel fun i => Record.bits_of_get (recordOfSegment_get_vel g i),
    of_get g.kp fun i => Record.bits_of_get (recordOfSegment_get_kp g i),
    of_get g.ki fun i => Record.bits_of_get (recordOfSegment_get_ki g i),
    of_get g.kd fun i => Record.bits_of_get (recordOfSegment_get_kd g i),
    Record.bits_of_get (recordOfSegment_get_dirMask g), BitVec.and_assoc, BitVec.and_self]
  rfl

end

/-! ### The obligations -/

/-- Settles O13, by the round trip of a record in range (R142). -/
theorem moveSegmentCodec : Obligations.MoveSegmentCodec := by
  intro c g hw hl hv
  have layout : c.reqLayout.get .moveQueueAdd = Layout.defaultReq.moveQueueAdd := hl
  refine ⟨?_, recordOfSegment g, ?_, segmentOf_recordOfSegment g⟩
  · rw [encodeReq, layout, encodeFrame_length]
    rfl
  · exact (codecRoundTrip c hw).1 .moveQueueAdd _ (layout.symm ▸ recordOfSegment_fits hv)

/-- Settles O15: the tail is the last byte, so the whole frame is dispatched (`routeBytes_of_tail`). -/
theorem streamedFrameDispatches : Obligations.StreamedFrameDispatches := by
  intro s f hw hr h0 h4 hcap hh ht ho
  obtain ⟨r, hidx, hrun⟩ := routeBytes_of_tail (k := f.length - 1) hw hr h0 hh (by omega) (by omega) (by omega) ht
    fun j h3 hj => ho j h3 (by omega)
  rw [Nat.sub_add_cancel (by omega), List.take_length] at hrun
  refine ⟨s.setRt r, by simp [State.accumulated, hidx], rfl, ?_⟩
  rw [execAll_rxBytes (List.ne_nil_of_length_pos (by omega)), hrun]

/-- Settles O35: each row is `sendResponse` of its type. -/
theorem responseRows : Obligations.ResponseRows := by
  intro s ty i f hw hf hm
  have row : i = Instr.ofResponse ty f := by
    simp only [List.mem_cons, Prod.mk.injEq, List.not_mem_nil, or_false] at hm
    rcases hm with ⟨rfl, rfl⟩ | ⟨rfl, rfl⟩ | ⟨rfl, rfl⟩ | ⟨rfl, rfl⟩ | ⟨rfl, rfl⟩ |
      ⟨rfl, rfl⟩ | ⟨rfl, rfl⟩ | ⟨rfl, rfl⟩ <;> rfl
  rw [row, exec_ofResponse]
  refine ⟨fun r hd => ⟨_, rfl, ?_⟩, fun k hd => ?_⟩
  · rw [sendResponse, hd]
    refine ⟨rfl, (SameFifo.refl s).responded hw hf ty r, ?_⟩
    unfold SameButResponse
    exact congrArg ({ · with result := s.result }) (pushResp_frame (encodeResp s.cfg ty r) s)
  · rw [sendResponse, hd]
    rfl

end Sys2Proof.Machine

/-! The whole machine: how the engine changes state, that the pins are what the events leave, and which errors reach
the port (43_motion_fsm.md R250, 10_state.md R37, 60_exceptions.md R320, R322): the obligations O57, O59 and O60. -/

namespace Sys2Proof.Machine

section

variable {s t u : State} {i : Instr}

/-! ### The engine's transitions (R250) -/

/-- A request that leaves another engine state decoded, and its handler changed it. -/
theorem decoded_of_fsm_ne {ty : ReqType} {f : List Byte} (h : (handle ty f s).fsm ≠ s.fsm) :
    ∃ r, handle ty f s = onDecoded ty f r s := by
  rcases withDecoded_cases ty f (onDecoded ty f) s with ⟨r, -, e⟩ | ⟨_, -, e⟩ <;> rw [← handle_eq_withDecoded] at e
  · exact ⟨r, e⟩
  · rw [e] at h
    exact absurd rfl h

theorem addSegment_fsm (g : MoveSegment) (s : State) (h : (addSegment g s).fsm ≠ s.fsm) :
    (s.fsm = .idle ∨ s.fsm = .done) ∧ (addSegment g s).fsm = .queued := by
  by_cases safe : s.ctl.safe = false
  · rw [addSegment_of_notSafe g safe, respondAck_fsm] at h
    exact absurd rfl h
  rw [Bool.not_eq_false] at safe
  by_cases full : s.q.count.toNat = s.cfg.qcap
  · rw [addSegment_of_full g safe full, respondAck_fsm] at h
    exact absurd rfl h
  rw [addSegment_of_room g safe full, respondAck_fsm] at h ⊢
  have fsm : (enqueuedState g s).fsm = if s.fsm = .idle ∨ s.fsm = .done then .queued else s.fsm := rfl
  rw [fsm] at h ⊢
  split at h
  · exact ⟨‹_›, if_pos ‹_›⟩
  · exact absurd rfl h

theorem startMove_fsm (hs : EngineOk s) (h : (startMove s).fsm ≠ s.fsm) :
    s.fsm ≠ .running ∧ s.q.count ≠ 0#16 ∧ (startMove s).fsm = .running := by
  rcases startMove_cases s with ⟨active, e⟩ | ⟨-, queued, e⟩ | ⟨-, -, e⟩ <;> rw [e] at h ⊢
  · exact absurd (hs.active.1 active).symm h
  · exact ⟨fun running => h running.symm, queued, rfl⟩
  · exact absurd rfl h

theorem setFriction_fsm (e : Byte) (s : State) (h : (setFriction e s).fsm ≠ s.fsm) :
    s.fsm = .queued ∧ (setFriction e s).fsm = .idle ∧ (setFriction e s).ctl.frictionEn = true ∧
      (setFriction e s).q.count = 0#16 := by
  by_cases he : e = 0#8
  · rw [he, setFriction_of_off] at h
    exact absurd rfl h
  · rw [setFriction_of_on he] at h ⊢
    have fsm : (frictionArmed s).fsm = if s.fsm = .queued then .idle else s.fsm := rfl
    rw [fsm] at h ⊢
    split at h
    · exact ⟨‹_›, if_pos ‹_›, rfl, rfl⟩
    · exact absurd rfl h

theorem tickHf_fsm (h : (tickHf s).fsm ≠ s.fsm) :
    s.fsm = .running ∧ s.q.count = 0#16 ∧ (tickHf s).fsm = .done := by
  have phases : (afterPhases s).fsm = s.fsm ∧ (afterPhases s).q = s.q := by simp [afterPhases, State.forAxes]
  rcases tickHf_cases s with ⟨-, e⟩ | ⟨running, e⟩
  · rw [e] at h
    exact absurd (by simp [State.forAxes]) h
  · rw [← afterPhases] at e
    rcases completionCheck_cases (afterPhases s) with ⟨-, -, e'⟩ | ⟨-, empty, -, e'⟩ | ⟨e', -⟩ <;> rw [e, e'] at h ⊢
    · exact absurd (by rw [beginNext_fsm, phases.1]) h
    · exact ⟨running, phases.2 ▸ empty, by simp⟩
    · exact absurd phases.1 h

/-- Apart from the router operations, only a request may run its handler. -/
theorem request_of_mayRequest {ty : ReqType} (hbyte : ∀ b, i ≠ .rxByte b) (htransfer : ∀ b, i ≠ .rxTransfer b)
    (h : mayRequest ty i) : ∃ f, i = Instr.ofRequest ty f := by
  unfold mayRequest at h
  split at h
  · exact absurd rfl (hbyte _)
  · exact absurd rfl (htransfer _)
  · exact h

/-! ### The pins and the events (R37) -/

/-- `u` is `s` after events that its trace ends with and its pins are what they leave. -/
def Emitted (s u : State) : Prop := ∃ es, u.trace = s.trace ++ es ∧ replay es s.pin = u.pin

theorem Emitted.refl (s : State) : Emitted s s := ⟨[], by simp, rfl⟩

theorem Emitted.trans (h : Emitted s t) (h' : Emitted t u) : Emitted s u := by
  obtain ⟨es, trace, pins⟩ := h
  obtain ⟨es', trace', pins'⟩ := h'
  refine ⟨es ++ es', by rw [trace', trace, List.append_assoc], ?_⟩
  rw [replay, List.foldl_append]
  change replay es' (replay es s.pin) = _
  rw [pins, pins']

/-- An operation that emits nothing moves no line. -/
theorem Emitted.congr (h : Emitted s t) (ht : u.trace = t.trace) (hp : u.pin = t.pin) : Emitted s u :=
  h.trans ⟨[], by simp [ht], hp.symm⟩

/-- A per-axis loop whose rounds each emit what they do to the pins. -/
theorem Emitted.forAxes {f : Axis → State → State} (hf : ∀ i s, Emitted s (f i s)) (s : State) :
    Emitted s (s.forAxes f) := ((hf .x s).trans (hf .y _)).trans (hf .z _)

theorem replay_stopEvents (p : PerAxis Pin) (i : Axis) :
    replay (stopEvents i (p.get i)) p = p.set i { p.get i with step := false, en := false } := by
  have same {v : Pin} (h : p.get i = v) : p.set i v = p := h ▸ PerAxis.set_get p i
  rcases h : p.get i with ⟨_ | _, dir, _ | _⟩ <;> simp [stopEvents, replay, Event.apply, h, same]

theorem emitted_stopAxis (i : Axis) (s : State) : Emitted s (stopAxis i s) :=
  ⟨_, stopAxis_trace i s, (replay_stopEvents s.pin i).trans (stopAxis_pin i s).symm⟩

theorem replay_beginEvents (g : MoveSegment) (p : PerAxis Pin) (i : Axis) :
    replay (beginEvents g i (p.get i)) p = p.set i (beginPin g i (p.get i)) := by
  rcases h : p.get i with ⟨step, dir, _ | _⟩ <;> by_cases steps : g.steps.get i = 0#32 <;>
    simp [beginEvents, beginPin, replay, Event.apply, h, steps]

theorem emitted_beginAxis (g : MoveSegment) (chained : Bool) (i : Axis) (s : State) :
    Emitted s (beginAxis g chained i s) :=
  ⟨_, beginAxis_trace g chained i s, (replay_beginEvents g s.pin i).trans (beginAxis_pin g chained i s).symm⟩

theorem emitted_closePulse (i : Axis) (s : State) : Emitted s (closePulse i s) := by
  refine ⟨_, closePulse_trace i s, ?_⟩
  rw [closePulse_pin, closeEvents, closedPin]
  split <;> simp [replay, Event.apply]

theorem emitted_accumulate (i : Axis) (s : State) : Emitted s (accumulate i s) := by
  refine ⟨_, accumulate_trace i s, ?_⟩
  rw [accumulate_pin, moveEvents, movedPin]
  split <;> simp [replay, Event.apply]

theorem emitted_stopAllAxes (s : State) : Emitted s (stopAllAxes s) :=
  (Emitted.forAxes emitted_stopAxis s).congr rfl rfl

theorem emitted_beginNext (chained : Bool) (s : State) : Emitted s (beginNext chained s) := by
  have dequeued : Emitted s s.dequeue := (Emitted.refl s).congr rfl rfl
  have begun : Emitted s (s.dequeue.forAxes (beginAxis s.headSegment chained)) :=
    dequeued.trans (.forAxes (emitted_beginAxis s.headSegment chained) _)
  exact begun.congr (State.setSeg_trace ..) (State.setSeg_pin ..)

theorem Emitted.startMove (h : Emitted s t) : Emitted s (startMove t) := by
  rcases startMove_cases t with ⟨-, e⟩ | ⟨-, -, e⟩ | ⟨-, -, e⟩ <;> rw [e]
  · exact h.congr rfl rfl
  · exact (h.trans (emitted_beginNext false t)).congr rfl rfl
  · exact h

theorem Emitted.moveEnd (h : Emitted s t) (fid status : Byte) : Emitted s (moveEnd fid status t) := by
  have stopped : Emitted s (stopAllAxes (t.setFsm .stopping)) := (h.congr rfl rfl).trans (emitted_stopAllAxes _)
  exact stopped.congr (by simp [Machine.moveEnd]) (by simp [Machine.moveEnd, pushMoveEnd])

theorem Emitted.completionCheck (h : Emitted s t) : Emitted s (completionCheck t) := by
  rcases completionCheck_cases t with ⟨-, -, e⟩ | ⟨-, -, -, e⟩ | ⟨e, -⟩ <;> rw [e]
  · exact h.trans (emitted_beginNext true t)
  · exact (h.trans (emitted_stopAllAxes t)).congr (by simp) (by simp)
  · exact h

theorem Emitted.tickHf (h : Emitted s t) : Emitted s (tickHf t) := by
  have closed := h.trans (Emitted.forAxes emitted_closePulse t)
  rcases tickHf_cases t with ⟨-, e⟩ | ⟨-, e⟩ <;> rw [e]
  · exact closed
  · exact (closed.trans (Emitted.forAxes emitted_accumulate _)).completionCheck

/-- Since `s` no free value was drawn, or events tell the pins: a RESET draws, as it puts the direction lines low
without an event (R350). -/
def EmittedUnlessReset (s u : State) : Prop := s.free ≤ u.free ∧ (u.free = s.free → Emitted s u)

theorem EmittedUnlessReset.of_emitted (h : EmittedUnlessReset s t) (hf : u.free = t.free)
    (he : Emitted s t → Emitted s u) : EmittedUnlessReset s u :=
  ⟨hf ▸ h.1, fun e => he (h.2 (hf ▸ e))⟩

theorem EmittedUnlessReset.congr (h : EmittedUnlessReset s t) (hf : u.free = t.free) (ht : u.trace = t.trace)
    (hp : u.pin = t.pin) : EmittedUnlessReset s u :=
  h.of_emitted hf fun e => e.congr ht hp

theorem emittedUnlessReset_closed (s : State) : Closed (EmittedUnlessReset s) where
  ok _ _ h := h.congr rfl rfl rfl
  raise _ _ h := h.congr rfl rfl rfl
  counters _ _ h := h.congr rfl rfl rfl
  router _ _ h := h.congr rfl rfl rfl
  emit ty f t h := h.of_emitted rfl fun e => e.trans ⟨[.extService ty f], rfl, rfl⟩
  respond _ _ _ h := h.congr (by simp) (by simp) (by simp)
  push _ _ _ h he := by rw [push_ok_eq he]; exact h.congr rfl rfl rfl
  pop _ _ _ h hp := by rcases pop_state hp with ⟨-, e⟩ | ⟨-, e⟩ <;> rw [e] <;> exact h.congr rfl rfl rfl
  load _ _ h he := by rw [load_eq he]; exact h.congr rfl rfl rfl
  prime _ _ _ h he := by rw [prime_eq he]; exact h.congr rfl rfl rfl
  enqueue _ _ _ h he := by rw [enqueue_ok_eq he]; exact h.congr rfl rfl rfl
  start _ h := h.of_emitted (by simp) .startMove
  stop fid status _ h := h.of_emitted (by simp) (·.moveEnd fid status)
  origins _ _ _ h := h.congr (by simp) (by simp) (by simp)
  microsteps _ _ h _ := h.congr rfl rfl rfl
  friction _ _ h := h.congr (by simp) (by simp) (by simp)
  safe _ _ h := h.congr rfl rfl rfl
  hf _ h := h.of_emitted (by simp) .tickHf
  lf _ _ h := h.congr (by simp) (by simp) (by simp)
  reset _ h := ⟨Nat.le_succ_of_le h.1, fun e => absurd e (Nat.lt_succ_of_le h.1).ne'⟩
  advance _ h := h.congr rfl rfl rfl

/-! ### The errors that reach the port (R320, R322) -/

theorem push_error {f : List Byte} {k : ErrorKind} (h : s.push (some f) = .error k) :
    k = .invalidArgument ∨ k = .allocationError := by
  simp only [State.push] at h
  split_ifs at h <;> cases h
  · exact .inl rfl
  · exact .inr rfl

theorem pop_error {n : Nat} {k : ErrorKind} (h : s.pop n = .error k) : k = .rangeError := by
  simp only [State.pop] at h
  split_ifs at h
  cases h
  rfl

theorem sendResponse_result (ty : RespType) (f : List Byte) (s : State) : (sendResponse ty f s).result = .ok .unit := by
  unfold sendResponse
  split <;> rfl

theorem exec_result {k : ErrorKind} (he : exec i s = .next t) (hk : t.result = .err k) :
    (∃ c, i = .fifoPop c ∧ k = .rangeError) ∨
      ∃ f, i = .fifoPushExt f ∧ (k = .invalidArgument ∨ k = .allocationError) := by
  cases i using Instr.rowCases with
  | fifoPop c =>
    simp only [exec, execFifoPop] at he
    split at he <;> cases he
    · cases hk
    · cases hk
      exact .inl ⟨c, rfl, pop_error ‹_›⟩
  | fifoPushExt f =>
    simp only [exec, execFifoPushExt] at he
    split at he <;> cases he
    · cases hk
    · cases hk
      exact .inr ⟨f, rfl, push_error ‹_›⟩
  | loadPending =>
    simp only [exec, execLoadPending] at he
    split at he
    · split at he <;> cases he <;> cases hk
    · cases he
      cases hk
  | request ty f =>
    rw [exec_ofRequest] at he
    cases he
    cases hk
  | response ty f =>
    rw [exec_ofResponse] at he
    cases he
    rw [sendResponse_result] at hk
    cases hk
  | reservedD | reservedE => cases he
  | _ => cases he; cases hk

end

/-! ### The obligations -/

/-- Settles O57: only the writers of `fsm` can change it (`exec_attributed`), and each of them changes it by its row.
-/
theorem engineTransitions : Obligations.EngineTransitions := by
  intro i s t hs hbyte htransfer he hne
  by_cases hi : i = .reset
  · subst hi
    cases he
    exact .inr (.inr (.inr (.inr (.inr (.inl ⟨rfl, rfl⟩)))))
  rcases (exec_attributed hi he).writer .fsm hne with ⟨ty, hty, request⟩ | rfl | rfl
  · obtain ⟨f, rfl⟩ := request_of_mayRequest hbyte htransfer request
    rw [exec_ofRequest] at he
    cases he
    rw [State.ok_fsm] at hne
    obtain ⟨r, handled⟩ := decoded_of_fsm_ne hne
    rw [State.ok_fsm, State.ok_ctl, State.ok_q]
    rw [handled] at hne ⊢
    simp only [List.mem_cons, List.not_mem_nil, or_false] at hty
    rcases hty with rfl | rfl | rfl | rfl
    · exact .inl ⟨f, rfl, addSegment_fsm _ s hne⟩
    · simp only [onDecoded, respondAck_fsm] at hne ⊢
      exact .inr (.inl ⟨f, rfl, startMove_fsm hs hne⟩)
    · exact .inr (.inr (.inr (.inl ⟨f, rfl, rfl⟩)))
    · simp only [onDecoded, respondAck_fsm, respondAck_ctl, respondAck_q] at hne ⊢
      exact .inr (.inr (.inr (.inr (.inr (.inr ⟨f, rfl, setFriction_fsm _ s hne⟩)))))
  · cases he
    rw [State.ok_fsm] at hne ⊢
    obtain ⟨running, empty, done⟩ := tickHf_fsm hne
    exact .inr (.inr (.inl ⟨rfl, running, empty, done⟩))
  · cases he
    exact .inr (.inr (.inr (.inr (.inl ⟨rfl, rfl⟩))))

/-- Settles O59, by `Closed`: of the operations that move a line all but RESET emit the events that tell it. -/
theorem pinsFollowEvents : Obligations.PinsFollowEvents := by
  intro i s t hi he
  have start : EmittedUnlessReset s s := ⟨le_rfl, fun _ => .refl s⟩
  exact ((emittedUnlessReset_closed s).exec start he).2 (exec_attributed hi he).frame.2.2

/-- Settles O60: FIFO_POP and FIFO_PUSH_EXT answer what `pop` and `push` raise, and every other row answers Ok. -/
theorem errorsThatReachThePort : Obligations.ErrorsThatReachThePort :=
  ⟨fun _ => rfl, rfl, rfl, rfl, rfl, fun _ _ _ _ he hk => exec_result he hk⟩

end Sys2Proof.Machine

/-! HF ticks (44_dda_pulse.md R261 to R264): the obligations O39 and O42. Outside Running a tick is phase 1 alone; in
Running a line that is high stays so while its hold is above 1. -/

namespace Sys2Proof.Machine

section

variable {c : Config} {s u : State} {a b d : AxisState} {p p' : Pin} {i : Axis}

/-! ### The phases of a tick -/

theorem exec_tickHf (s : State) : exec .tickHf s = .next ((tickHf s).ok .unit) := rfl

theorem tickHf_of_not_running (h : s.fsm ≠ .running) : tickHf s = s.forAxes closePulse := by
  rcases tickHf_cases s with ⟨-, e⟩ | ⟨hr, -⟩
  · exact e
  · exact absurd hr h

theorem tickHf_of_running (h : s.fsm = .running) : tickHf s = completionCheck (afterPhases s) := by
  rcases tickHf_cases s with ⟨hne, -⟩ | ⟨-, e⟩
  · exact absurd h hne
  · exact e

theorem afterPhases_frame (s : State) : (afterPhases s).cfg = s.cfg ∧ (afterPhases s).fsm = s.fsm ∧
    (afterPhases s).q = s.q := by
  simp [afterPhases, State.forAxes]

theorem afterPhases_ax (s : State) (i : Axis) :
    (afterPhases s).ax.get i = movedAxis s.cfg (closeHolds s.cfg (s.ax.get i)) := by
  rw [afterPhases, moved_ax, closed_ax]
  simp [State.forAxes]

theorem afterPhases_pin (s : State) (i : Axis) : (afterPhases s).pin.get i =
    movedPin (closeHolds s.cfg (s.ax.get i)) (closedPin (s.ax.get i) (s.pin.get i)) := by
  rw [afterPhases, moved_pin, closed_ax, closed_pin]

/-- The events of phases 1 and 2: the falls of all axes, then the rises. -/
def phaseEvents (s : State) : List Event :=
  (Axis.all.flatMap fun j => closeEvents j (s.ax.get j)) ++
    Axis.all.flatMap fun j => moveEvents j (closeHolds s.cfg (s.ax.get j))

theorem afterPhases_trace (s : State) : (afterPhases s).trace = s.trace ++ phaseEvents s := by
  have x := closed_ax s .x
  have y := closed_ax s .y
  have z := closed_ax s .z
  simp only [PerAxis.get] at x y z
  rw [afterPhases, moved_trace, closed_trace]
  simp [phaseEvents, Axis.all, PerAxis.get, x, y, z]

theorem stepLow_mem_phaseEvents : .stepLow i ∈ phaseEvents s ↔ pulseEnds (s.ax.get i) = true := by
  cases i <;> simp [phaseEvents, Axis.all, closeEvents, moveEvents]

/-- Phase 2 raises a line once for every step it takes. -/
theorem count_stepHigh_phaseEvents :
    (phaseEvents s).count (.stepHigh i) = if takesStep (closeHolds s.cfg (s.ax.get i)) then 1 else 0 := by
  have falls (j : Axis) (a : AxisState) : (closeEvents j a).count (.stepHigh i) = 0 := by
    unfold closeEvents; split <;> simp
  have rises (j : Axis) (a : AxisState) :
      (moveEvents j a).count (.stepHigh i) = if takesStep a ∧ j = i then 1 else 0 := by
    unfold moveEvents; by_cases ht : takesStep a = true <;> simp [ht, List.count_singleton]
  cases i <;> simp [phaseEvents, Axis.all, falls, rises]

/-! ### A pulse (R264) -/

theorem ticksHf_succ (n : Nat) (s : State) : ticksHf (n + 1) s = (tickHf (ticksHf n s)).ok .unit := by
  induction n generalizing s with
  | zero => rfl
  | succ n ih => exact ih _

theorem ticksHf_cfg (n : Nat) (s : State) : (ticksHf n s).cfg = s.cfg := by
  induction n with
  | zero => rfl
  | succ n ih => rw [ticksHf_succ, State.ok_cfg, tickHf_cfg, ih]

/-- In Running, the line of axis `i` is high for `n` more ticks. -/
structure Held (i : Axis) (n : Nat) (s : State) : Prop where
  cfg : s.cfg.wf = true
  fsm : s.fsm = .running
  hold : (s.ax.get i).highHold.toNat = n
  high : (s.pin.get i).step = true

/-- A hold that is open says that the engine runs and the line is high (R35, R36). -/
theorem Held.of_engineOk (hw : s.cfg.wf = true) (h : EngineOk s) {n : Nat}
    (hn : (s.ax.get i).highHold.toNat = n) (h0 : 0 < n) : Held i n s := by
  have hold : (s.ax.get i).highHold ≠ 0#32 := fun e => by simp [e] at hn; omega
  rcases (engineOk_iff s).1 h with hm | hr
  · exact ⟨hw, hm.fsm, hn, hm.pulse i hold⟩
  · exact absurd (by rw [hr.axes i]; rfl) hold

/-- What a tick in Running does after the phases while axis `i` keeps its line high: nothing that `i` shows, but for a
chained begin, which leaves the step line and its hold. -/
theorem completionCheck_of_hold (h : (u.ax.get i).highHold ≠ 0#32) :
    (completionCheck u).fsm = u.fsm ∧ ((completionCheck u).ax.get i).highHold = (u.ax.get i).highHold ∧
      ((completionCheck u).pin.get i).step = (u.pin.get i).step ∧
      ∃ es, (completionCheck u).trace = u.trace ++ es ∧ .stepLow i ∉ es := by
  rcases completionCheck_cases u with ⟨-, -, e⟩ | ⟨-, -, low, -⟩ | ⟨e, -⟩
  · rw [e]
    refine ⟨by simp, by rw [beginNext_ax, begunAxis_highHold], by rw [beginNext_pin, beginPin], _,
      beginNext_trace _ u, ?_⟩
    simp [beginEvents]
  · exact absurd ((linesLow_iff u).1 low i) h
  · rw [e]
    exact ⟨rfl, rfl, rfl, [], by simp, by simp⟩

/-- The completion check only appends events, and while the engine goes on it leaves the low holds: a chained begin
does. -/
theorem completionCheck_lowHold (u : State) (i : Axis) :
    (∃ es, (completionCheck u).trace = u.trace ++ es) ∧ ((completionCheck u).fsm = .running →
      ((completionCheck u).ax.get i).lowHold = (u.ax.get i).lowHold) := by
  rcases completionCheck_cases u with ⟨-, -, e⟩ | ⟨-, -, -, e⟩ | ⟨e, -⟩
  · rw [e]
    exact ⟨⟨_, beginNext_trace _ u⟩, fun _ => by rw [beginNext_ax, begunAxis, beginSettle_eq, beginLoad_eq]⟩
  · rw [e]
    exact ⟨⟨_, by rw [pushMoveEnd_trace, State.setFsm_trace, stopAllAxes_trace]⟩, fun running => by simp at running⟩
  · rw [e]
    exact ⟨⟨[], by simp⟩, fun _ => rfl⟩

theorem movedAxis_of_hold (h : a.highHold ≠ 0#32) : movedAxis c a = a ∧ movedPin a p = p := by
  simp [movedAxis, movedPin, takesStep, eligible, h]

/-- A tick with more than one tick of the hold left takes one from it, and the line does not fall. -/
theorem Held.tick {n : Nat} (h : Held i (n + 1) s) (h0 : 0 < n) :
    Held i n (tickHf s) ∧ ∃ es, (tickHf s).trace = s.trace ++ es ∧ .stepLow i ∉ es := by
  have closed := closeHolds_spec h.cfg (s.ax.get i) (s.pin.get i)
  have hold : (closeHolds s.cfg (s.ax.get i)).highHold.toNat = n := by rw [closed.high, h.hold]; rfl
  have stillOpen : (closeHolds s.cfg (s.ax.get i)).highHold ≠ 0#32 := fun e => by rw [e] at hold; simp at hold; omega
  have stays : pulseEnds (s.ax.get i) = false := by
    rw [← Bool.not_eq_true, pulseEnds_iff, h.hold]; omega
  have ax : (afterPhases s).ax.get i = closeHolds s.cfg (s.ax.get i) := by
    rw [afterPhases_ax, (movedAxis_of_hold (p := ⟨false, false, false⟩) stillOpen).1]
  have pin : (afterPhases s).pin.get i = s.pin.get i := by
    rw [afterPhases_pin, (movedAxis_of_hold (c := s.cfg) stillOpen).2, closedPin, stays]; rfl
  obtain ⟨cfg, fsm, -⟩ := afterPhases_frame s
  obtain ⟨fsm', hold', pin', es, trace, quiet⟩ := completionCheck_of_hold (u := afterPhases s) (i := i) (by rwa [ax])
  rw [tickHf_of_running h.fsm]
  refine ⟨⟨?_, fsm'.trans (fsm.trans h.fsm), by rw [hold', ax, hold], by rw [pin', pin, h.high]⟩,
    phaseEvents s ++ es, by rw [trace, afterPhases_trace, List.append_assoc], ?_⟩
  · rw [completionCheck_cfg, cfg, h.cfg]
  · simp [quiet, stepLow_mem_phaseEvents, stays]

/-- The tick with one tick of the hold left lets the line fall and starts the low hold. -/
theorem Held.fall (h : Held i 1 s) :
    (∃ es, (tickHf s).trace = s.trace ++ es ∧ .stepLow i ∈ es) ∧
      ((tickHf s).fsm = .running → ((tickHf s).ax.get i).lowHold.toNat = s.cfg.pulseLow) := by
  obtain ⟨⟨es, trace⟩, lowHold⟩ := completionCheck_lowHold (afterPhases s) i
  rw [tickHf_of_running h.fsm]
  refine ⟨⟨phaseEvents s ++ es, by rw [trace, afterPhases_trace, List.append_assoc], ?_⟩, fun running => ?_⟩
  · simp [stepLow_mem_phaseEvents, pulseEnds_iff, h.hold]
  · have moved : (movedAxis s.cfg (closeHolds s.cfg (s.ax.get i))).lowHold =
        (closeHolds s.cfg (s.ax.get i)).lowHold := by
      unfold movedAxis accumulated; split <;> [split <;> rfl; rfl]
    rw [lowHold running, afterPhases_ax, moved, (closeHolds_spec h.cfg (s.ax.get i) (s.pin.get i)).low, h.hold]
    simp

theorem Held.ok {n : Nat} (h : Held i n s) (v : OutVal) : Held i n (s.ok v) := ⟨h.cfg, h.fsm, h.hold, h.high⟩

/-- After `n` ticks of a hold of more than `n`. -/
theorem Held.ticksHf {h n : Nat} (held : Held i h s) (hn : n < h) :
    Held i (h - n) (ticksHf n s) ∧ ∃ es, (ticksHf n s).trace = s.trace ++ es ∧ .stepLow i ∉ es := by
  induction n with
  | zero => exact ⟨held, [], by simp [Machine.ticksHf]⟩
  | succ n ih =>
    obtain ⟨before, es, trace, quiet⟩ := ih (by omega)
    have left : h - n = h - (n + 1) + 1 := by omega
    rw [left] at before
    obtain ⟨after, es', trace', quiet'⟩ := before.tick (by omega)
    rw [ticksHf_succ]
    exact ⟨after.ok _, es ++ es', by rw [State.ok_trace, trace', trace, List.append_assoc], by simp [quiet, quiet']⟩

end

/-! ### The obligations on a pulse and on the tick outside Running -/

/-- Settles O39: outside Running the tick is phase 1 alone. -/
theorem hfTickOutsideRunning : Obligations.HfTickOutsideRunning := by
  intro s hw hf
  refine ⟨_, exec_tickHf s, rfl, fun i => ?_, ?_, ?_⟩ <;> rw [tickHf_of_not_running hf]
  · rw [State.ok_ax, State.ok_pin, closed_ax, closed_pin]
    exact closeHolds_spec hw _ _
  · rw [State.ok_trace, closed_fall]
  · apply State.eq_of_fields <;> simp [State.forAxes]

/-- Settles O42: a hold that is open is one tick shorter after each tick, by induction on the ticks. -/
theorem pulseWidth : Obligations.PulseWidth := by
  intro s i h good hold h0
  have held := Held.of_engineOk good.cfg good.engine hold h0
  refine ⟨fun n hn => ?_, ?_⟩
  · obtain ⟨before, quiet⟩ := held.ticksHf hn
    exact ⟨before.high, quiet⟩
  · obtain ⟨n, rfl⟩ : ∃ n, h = n + 1 := ⟨h - 1, by omega⟩
    obtain ⟨last, -⟩ := held.ticksHf (Nat.lt_succ_self n)
    obtain ⟨falls, low⟩ := Held.fall (i := i) (s := ticksHf n s) (by simpa using last)
    rw [Nat.add_sub_cancel, ticksHf_succ, State.ok_trace, State.ok_fsm, State.ok_ax]
    exact ⟨falls, fun running => by rw [low running, ticksHf_cfg]⟩

end Sys2Proof.Machine

/-! The end of a motion under HF ticks (44_dda_pulse.md R268): the obligation O43. The work an axis has left, counted
in ticks, is never raised by phases 1 and 2 and falls while the axis has steps left or its line high; the rises are
the steps taken. -/

namespace Sys2Proof.Machine

section

variable {c : Config} {s u : State} {a b d : AxisState} {p q r : Pin} {i : Axis}

/-! ### The work of an axis -/

/-- The steps an axis still has to make. -/
def stepsLeft (a : AxisState) : Nat := a.total.toNat - a.emitted.toNat

/-- The ticks the holds of an axis may take: a high hold is followed by a low one (R261). -/
def holdTicks (c : Config) (a : AxisState) : Nat :=
  (if a.highHold.toNat = 0 then a.lowHold.toNat else a.highHold.toNat + c.pulseLow) +
    a.enSettle.toNat + a.dirSettle.toNat

/-- The ticks of one step at most: `one` accumulations and the two holds. -/
def stepTicks (c : Config) : Nat := one + c.pulseHigh + c.pulseLow

/-- A bound on the ticks an axis still needs. -/
def work (c : Config) (a : AxisState) : Nat := stepsLeft a * stepTicks c + holdTicks c a + (one - a.phase.toNat)

/-- The axis keeps a segment from being complete: steps are left, or its line is high (R267). -/
def Busy (a : AxisState) : Prop := stepsLeft a ≠ 0 ∨ a.highHold.toNat ≠ 0

/-- The axis accumulates while it has steps left. -/
def Drives (a : AxisState) : Prop := 0 < stepsLeft a → 1 ≤ a.incr.toNat

/-- Phase 1 leaves the steps and the phase; the holds shrink unless they are all 0. -/
theorem HoldsClosed.holdTicks_le (h : HoldsClosed c a b p q) : stepsLeft b = stepsLeft a ∧ b.incr = a.incr ∧
    b.phase = a.phase ∧ holdTicks c b ≤ holdTicks c a ∧ (0 < holdTicks c a → holdTicks c b < holdTicks c a) := by
  have total : b.total = a.total := (congrArg AxisState.total h.others :)
  have emitted : b.emitted = a.emitted := (congrArg AxisState.emitted h.others :)
  refine ⟨by rw [stepsLeft, total, emitted, stepsLeft], (congrArg AxisState.incr h.others :),
    (congrArg AxisState.phase h.others :), ?_⟩
  unfold holdTicks
  rw [h.high, h.low, h.enSettle, h.dirSettle]
  split_ifs <;> omega

/-- An axis with steps left is blocked by its holds only. -/
theorem unblocked_iff : Unblocked a ↔ 0 < stepsLeft a ∧ a.highHold.toNat = 0 ∧ holdTicks c a = 0 := by
  unfold Unblocked stepsLeft holdTicks
  split_ifs <;> omega

theorem holdTicks_congr (high : d.highHold = b.highHold) (low : d.lowHold = b.lowHold) (en : d.enSettle = b.enSettle)
    (dir : d.dirSettle = b.dirSettle) : holdTicks c d = holdTicks c b := by
  rw [holdTicks, high, low, en, dir, holdTicks]

/-- A step takes one of the steps left, and its two holds and the new phase cost less than it is worth. -/
theorem PhaseAdvanced.work_of_step (h : PhaseAdvanced c b d q r) (hw : c.wf = true) (ok : AxisOk c b) (hs : Steps b) :
    stepsLeft d + 1 = stepsLeft b ∧ d.incr = b.incr ∧ work c d < work c b := by
  obtain ⟨phase, high, emitted, -, rest, -⟩ := h.step hs
  obtain ⟨left, low, free⟩ := (unblocked_iff (c := c)).1 hs.1
  have total : d.total = b.total := (congrArg AxisState.total rest :)
  have en : d.enSettle = b.enSettle := (congrArg AxisState.enSettle rest :)
  have dir : d.dirSettle = b.dirSettle := (congrArg AxisState.dirSettle rest :)
  have steps : stepsLeft d + 1 = stepsLeft b := by unfold stepsLeft at *; rw [total, emitted]; omega
  obtain ⟨pulse, -⟩ := Config.pulse_bounds hw
  have holds : holdTicks c d = c.pulseHigh + c.pulseLow := by
    unfold holdTicks at *; rw [high, en, dir]; split_ifs at * <;> omega
  have := ok.phase
  refine ⟨steps, (congrArg AxisState.incr rest :), ?_⟩
  rw [work, work, ← steps, Nat.succ_mul, holds, free, stepTicks]
  omega

/-- Phase 2 on an axis (R262, R263): what it takes from the steps left is what it steps. -/
theorem PhaseAdvanced.work_le (h : PhaseAdvanced c b d q r) (hw : c.wf = true) (ok : AxisOk c b) (drives : Drives b) :
    stepsLeft d + (if takesStep b then 1 else 0) = stepsLeft b ∧ d.incr = b.incr ∧ work c d ≤ work c b ∧
      (Unblocked b → work c d < work c b) ∧ (¬ Unblocked b → d = b) := by
  by_cases hu : Unblocked b
  · by_cases hs : one ≤ b.phase.toNat + b.incr.toNat
    · obtain ⟨steps, incr, less⟩ := h.work_of_step hw ok ⟨hu, hs⟩
      rw [if_pos ((takesStep_iff b).2 ⟨hu, hs⟩)]
      exact ⟨steps, incr, less.le, fun _ => less, fun blocked => absurd hu blocked⟩
    · obtain ⟨phase, rest, -⟩ := h.noStep hu (by omega)
      have none : ¬ takesStep b = true := fun ht => hs ((takesStep_iff b).1 ht).2
      have steps : stepsLeft d = stepsLeft b := (congrArg stepsLeft rest :)
      have holds : holdTicks c d = holdTicks c b := (congrArg (holdTicks c) rest :)
      have := drives ((unblocked_iff (c := c)).1 hu).1
      have less : work c d < work c b := by rw [work, work, steps, holds, phase]; omega
      rw [if_neg none]
      exact ⟨steps, (congrArg AxisState.incr rest :), less.le, fun _ => less, fun blocked => absurd hu blocked⟩
  · have none : ¬ takesStep b = true := fun ht => hu ((takesStep_iff b).1 ht).1
    rw [(h.blocked hu).1, if_neg none]
    exact ⟨rfl, rfl, le_rfl, fun unblocked => absurd unblocked hu, fun _ => rfl⟩

/-- The axis after phases 1 and 2. -/
def tickedAxis (c : Config) (a : AxisState) : AxisState := movedAxis c (closeHolds c a)

/-- A tick takes from the work of an axis that is busy, and from its steps what it steps. -/
theorem tickedAxis_work (hw : c.wf = true) (ok : AxisOk c a) (drives : Drives a) :
    stepsLeft (tickedAxis c a) + (if takesStep (closeHolds c a) then 1 else 0) = stepsLeft a ∧
      Drives (tickedAxis c a) ∧ work c (tickedAxis c a) ≤ work c a ∧
      (Busy (tickedAxis c a) → work c (tickedAxis c a) < work c a) := by
  have closed := closeHolds_spec hw a ⟨false, false, false⟩
  obtain ⟨steps, incr, phase, holds, shrink⟩ := closed.holdTicks_le
  have high := closed.high
  have moved := movedAxis_spec hw (closeHolds_ok ok) ⟨false, false, false⟩
  obtain ⟨steps', incr', less, advances, blocked⟩ :=
    moved.work_le hw (closeHolds_ok ok) (by rwa [Drives, steps, incr])
  have before : work c (closeHolds c a) + holdTicks c a = work c a + holdTicks c (closeHolds c a) := by
    rw [work, work, steps, phase]; omega
  refine ⟨steps'.trans steps, ?_, by rw [tickedAxis]; omega, fun busy => ?_⟩
  · unfold Drives at *
    rw [tickedAxis, incr', incr]
    omega
  · by_cases hu : Unblocked (closeHolds c a)
    · have := advances hu
      rw [tickedAxis]; omega
    · have stillOpen : 0 < holdTicks c a := by
        rw [tickedAxis, blocked hu] at busy
        rw [unblocked_iff (c := c)] at hu
        unfold Busy at busy
        by_contra
        have : (closeHolds c a).highHold.toNat ≠ 0 := by omega
        unfold holdTicks at *
        split_ifs at * <;> omega
      have := shrink stillOpen
      rw [tickedAxis]; omega

/-! ### A motion that no segment follows (R268) -/

/-- The engine runs its last segment. -/
structure Finishing (s : State) : Prop where
  axes : AxesInv s
  fsm : s.fsm = .running
  queue : s.q.count = 0#16
  drives : ∀ i, Drives (s.ax.get i)

/-- A bound on the ticks the engine still needs. -/
def moveWork (s : State) : Nat := work s.cfg s.ax.x + work s.cfg s.ax.y + work s.cfg s.ax.z

theorem afterPhases_axes (h : AxesInv s) : AxesInv (afterPhases s) := h.closePulses.accumulates

/-- The segment being incomplete, or a line high, some axis is busy. -/
theorem exists_busy (ok : AxesInv u) (h : segmentDone u = false ∨ u.q.count = 0#16 ∧ linesLow u = false) :
    ∃ i, Busy (u.ax.get i) := by
  by_contra! idle
  have rests (j : Axis) : (u.ax.get j).emitted = (u.ax.get j).total ∧ (u.ax.get j).highHold = 0#32 := by
    have := idle j
    have := (ok.axes j).emitted
    unfold Busy stepsLeft at *
    exact ⟨BitVec.eq_of_toNat_eq (by omega), BitVec.eq_of_toNat_eq (by simp; omega)⟩
  rcases h with h | ⟨-, h⟩
  · rw [(segmentDone_iff u).2 fun j => (rests j).1] at h; cases h
  · rw [(linesLow_iff u).2 fun j => (rests j).2] at h; cases h

theorem moveWork_afterPhases (h : Finishing s) (busy : ∃ i, Busy ((afterPhases s).ax.get i)) :
    moveWork (afterPhases s) < moveWork s := by
  obtain ⟨cfg, -⟩ := afterPhases_frame s
  have axis (j : Axis) := tickedAxis_work h.axes.cfg (h.axes.axes j) (h.drives j)
  have ticked (j : Axis) : (afterPhases s).ax.get j = tickedAxis s.cfg (s.ax.get j) := afterPhases_ax s j
  obtain ⟨i, busy⟩ := busy
  rw [ticked] at busy
  obtain ⟨-, -, -, less⟩ := axis i
  have less := less busy
  obtain ⟨-, -, x, -⟩ := axis .x
  obtain ⟨-, -, y, -⟩ := axis .y
  obtain ⟨-, -, z, -⟩ := axis .z
  have tx := ticked .x
  have ty := ticked .y
  have tz := ticked .z
  simp only [PerAxis.get] at tx ty tz x y z
  rw [moveWork, moveWork, cfg, tx, ty, tz]
  cases i <;> simp only [PerAxis.get] at less <;> omega

theorem count_stepHigh_stopEvents (i j : Axis) (p : Pin) : (stopEvents j p).count (.stepHigh i) = 0 := by
  unfold stopEvents; split <;> split <;> simp

/-- A tick of the last segment: the rises are the steps taken, and the engine is Done or has less work left. -/
theorem Finishing.tick (h : Finishing s) : ∃ es, (tickHf s).trace = s.trace ++ es ∧ (tickHf s).q.count = 0#16 ∧
    ((tickHf s).fsm = .done ∧ (∀ i, es.count (.stepHigh i) = stepsLeft (s.ax.get i)) ∨
      Finishing (tickHf s) ∧ moveWork (tickHf s) < moveWork s ∧
        ∀ i, es.count (.stepHigh i) + stepsLeft ((tickHf s).ax.get i) = stepsLeft (s.ax.get i)) := by
  obtain ⟨cfg, fsm, queue⟩ := afterPhases_frame s
  have ticked (j : Axis) : (afterPhases s).ax.get j = tickedAxis s.cfg (s.ax.get j) := afterPhases_ax s j
  have axis (j : Axis) := tickedAxis_work h.axes.cfg (h.axes.axes j) (h.drives j)
  have rises (j : Axis) : (phaseEvents s).count (.stepHigh j) + stepsLeft ((afterPhases s).ax.get j) =
      stepsLeft (s.ax.get j) := by
    obtain ⟨steps, -⟩ := axis j
    rw [count_stepHigh_phaseEvents, ticked, ← steps, Nat.add_comm]
  have empty : (afterPhases s).q.count = 0#16 := by rw [queue, h.queue]
  rw [tickHf_of_running h.fsm]
  rcases completionCheck_cases (afterPhases s) with ⟨-, queued, -⟩ | ⟨complete, -, -, e⟩ | ⟨e, incomplete⟩
  · exact absurd empty queued
  · rw [e, pushMoveEnd_trace, pushMoveEnd_q, pushMoveEnd_fsm, State.setFsm_trace, stopAllAxes_trace, afterPhases_trace,
      List.append_assoc]
    refine ⟨_, rfl, by simpa using empty, .inl ⟨by simp, fun i => ?_⟩⟩
    have none : stepsLeft ((afterPhases s).ax.get i) = 0 := by
      rw [stepsLeft, (segmentDone_iff _).1 complete i, Nat.sub_self]
    simp only [List.count_append, count_stepHigh_stopEvents]
    have := rises i
    omega
  · have next : Finishing (afterPhases s) := ⟨afterPhases_axes h.axes, by rw [fsm, h.fsm], empty, fun j => by
      obtain ⟨-, drives, -⟩ := axis j
      rw [ticked]; exact drives⟩
    rw [e]
    exact ⟨phaseEvents s, afterPhases_trace s, empty,
      .inr ⟨next, moveWork_afterPhases h (exists_busy next.axes incomplete), rises⟩⟩

theorem Finishing.ok (h : Finishing s) (v : OutVal) : Finishing (s.ok v) :=
  ⟨h.axes.congr rfl rfl, h.fsm, h.queue, h.drives⟩

theorem moveWork_ok (s : State) (v : OutVal) : moveWork (s.ok v) = moveWork s := by
  rw [moveWork, State.ok_cfg, State.ok_ax, moveWork]

/-- By induction on the work left. -/
theorem Finishing.completes (h : Finishing s) : ∃ n es, (ticksHf n s).fsm = .done ∧ (ticksHf n s).q.count = 0#16 ∧
    (ticksHf n s).trace = s.trace ++ es ∧ ∀ i, es.count (.stepHigh i) = stepsLeft (s.ax.get i) := by
  induction hk : moveWork s using Nat.strong_induction_on generalizing s with
  | _ k ih =>
    obtain ⟨es, trace, empty, ⟨done, rises⟩ | ⟨next, less, rises⟩⟩ := h.tick
    · refine ⟨1, es, ?_⟩
      rw [ticksHf, ticksHf, State.ok_fsm, State.ok_q, State.ok_trace]
      exact ⟨done, empty, trace, rises⟩
    · obtain ⟨n, es', done', empty', trace', rises'⟩ :=
        ih (moveWork (tickHf s)) (by rwa [← hk]) (next.ok .unit) (by rw [moveWork_ok])
      refine ⟨n + 1, es ++ es', ?_⟩
      rw [ticksHf]
      refine ⟨done', empty', ?_, fun i => ?_⟩
      · rw [trace', State.ok_trace, trace, List.append_assoc]
      · rw [List.count_append, rises', State.ok_ax, rises]

end

/-! ### The obligation -/

/-- Settles O43, by induction on the work left: every tick of the last segment lowers it or ends the motion. -/
theorem motionCompletes : Obligations.MotionCompletes := by
  intro s good running empty drives
  exact Finishing.completes ⟨⟨good.cfg, good.axes⟩, running, empty, fun i left => drives i (Nat.lt_of_sub_pos left)⟩

end Sys2Proof.Machine

/-! The ramp (45_control_loop.md R290, R291, R294): the obligations O48 and O50. One equation says what the ramp
leaves on an axis with steps; a braking axis takes its branch that only slows down, and no other tick writes the
velocity while the move lasts. -/

namespace Sys2Proof.Machine

section

variable {c : Config} {s t : State} {a : AxisState} {i : Axis}

/-! ### One axis (R291) -/

/-- The accelerator before its units are taken: the sum cut to 32 bits (log entry 13). -/
def accelSum (c : Config) (a : AxisState) : Nat := (a.accFrac.toNat + c.accelQ16) % 2 ^ 32

/-- The velocity the ramp leaves, with the latch as it is after the decision. -/
def rampedVelocity (c : Config) (tv : Nat) (braking : Bool) (a : AxisState) : Nat :=
  let v := a.vActual.toNat
  let units := accelSum c a / 65536
  if braking then max (v - units) (min v c.vFloor)
  else if v < tv then min (v + units) tv
  else if v > tv then max (v - units) tv
  else v

theorem rampedVelocity_of_braking (c : Config) (tv : Nat) (a : AxisState) :
    rampedVelocity c tv true a = max (a.vActual.toNat - accelSum c a / 65536) (min a.vActual.toNat c.vFloor) := rfl

/-- The braking latch after the decision `dec`. -/
def latched (dec : Bool) (a : AxisState) : Bool := a.braking || (dec && a.vActual.toNat != 0)

/-- What the control steps leave of the ramp on an axis with steps, with `ACCEL > 0`. -/
theorem controlAxis_of_ramp (h : 0 < c.accel) (friction throttled dec : Bool) (a : AxisState) :
    (controlAxis c friction throttled dec a).braking = latched dec a ∧
      (controlAxis c friction throttled dec a).accFrac = BitVec.ofNat 32 (accelSum c a % 65536) ∧
      (controlAxis c friction throttled dec a).vActual =
        BitVec.ofNat 32 (rampedVelocity c (controlVelocity c throttled a) (latched dec a) a) := by
  simp only [controlAxis, ramp, if_neg h.ne', BitVec.toNat_ofNat]
  exact ⟨rfl, rfl, rfl⟩

/-- A value that fits is not cut. -/
theorem toNat_ofNat_of_le {n : Nat} {v : U32} (h : n ≤ v.toNat) : (BitVec.ofNat 32 n).toNat = n :=
  Nat.mod_eq_of_lt (h.trans_lt v.isLt)

theorem brakeDecision_iff (h : 0 < s.cfg.accel) (m : Option Axis) (i : Axis) :
    brakeDecision s m i = true ↔ MustBrake s m i := by
  simp [brakeDecision, h.ne', MustBrake, workLeft, remaining, brakeDistance]

theorem latched_eq_true_iff {dec : Bool} :
    latched dec a = true ↔ a.braking = true ∨ dec = true ∧ 0 < a.vActual.toNat := by
  simp [latched, Nat.pos_iff_ne_zero]

theorem accelSum_eq (c : Config) (a : AxisState) {sum : Nat} (h : sum = a.accFrac.toNat + c.accel * 65536 / c.fLf) :
    (if sum < 2 ^ 32 then sum else sum % 2 ^ 32) = accelSum c a := by
  have cut : accelSum c a = sum % 2 ^ 32 := by rw [h]; rfl
  rw [cut]
  split
  · exact (Nat.mod_eq_of_lt ‹_›).symm
  · rfl

/-- The branches of the ramped velocity, in its register. -/
theorem toNat_rampedVelocity (c : Config) (tv : Nat) (a : AxisState) :
    (BitVec.ofNat 32 (rampedVelocity c tv true a)).toNat =
        max (a.vActual.toNat - accelSum c a / 65536) (min a.vActual.toNat c.vFloor) ∧
      (a.vActual.toNat < tv →
        rampedVelocity c tv false a = min (a.vActual.toNat + accelSum c a / 65536) tv) ∧
      (tv < a.vActual.toNat → (BitVec.ofNat 32 (rampedVelocity c tv false a)).toNat =
        max (a.vActual.toNat - accelSum c a / 65536) tv) ∧
      (a.vActual.toNat = tv → (BitVec.ofNat 32 (rampedVelocity c tv false a)).toNat = a.vActual.toNat) := by
  refine ⟨?braking, fun rising => ?rising, fun falling => ?falling, fun cruising => ?cruising⟩
  case braking =>
    rw [rampedVelocity_of_braking]
    exact toNat_ofNat_of_le (v := a.vActual) (by omega)
  case rising => simp [rampedVelocity, rising]
  case falling =>
    have value : rampedVelocity c tv false a = max (a.vActual.toNat - accelSum c a / 65536) tv := by
      simp [rampedVelocity, falling, falling.le]
    rw [value]
    exact toNat_ofNat_of_le (v := a.vActual) (by omega)
  case cruising =>
    have value : rampedVelocity c tv false a = a.vActual.toNat := by simp [rampedVelocity, cruising]
    rw [value]
    exact toNat_ofNat_of_le le_rfl

/-! ### The tick on an axis with steps -/

/-- What TICK_LF leaves of the ramp, with `ACCEL > 0`: the control velocity is that of the errors of this tick. -/
theorem tickLf_ramp (h : 0 < s.cfg.accel) (hr : s.fsm = .running) (raw : PerAxis U32) (ht : (s.ax.get i).total ≠ 0#32) :
    let b := (tickLf raw s).ax.get i
    let m := (tickLf raw s).ctl.master
    let tv := (controlRule s.cfg m i (s.ax.get i) b.err.toInt).toNat
    let braking := latched (brakeDecision s m i) (s.ax.get i)
    b.braking = braking ∧ b.accFrac = BitVec.ofNat 32 (accelSum s.cfg (s.ax.get i) % 65536) ∧
      b.vActual = BitVec.ofNat 32 (rampedVelocity s.cfg tv braking (s.ax.get i)) := by
  have axis := tickLf_axis raw s i hr ht
  dsimp only at axis ⊢
  generalize (tickLf raw s).ctl.master = m at axis ⊢
  generalize ((tickLf raw s).ax.get i).err = e at axis ⊢
  have velocity := controlVelocity_eq s.cfg m i { s.ax.get i with err := e }
  have tv : (controlRule s.cfg m i (s.ax.get i) e.toInt).toNat =
      controlVelocity s.cfg (m.isSome && m != some i) { s.ax.get i with err := e } := by
    change (controlRule s.cfg m i { s.ax.get i with err := e } e.toInt).toNat = _
    rw [← velocity, Int.toNat_natCast]
  rw [axis, tv]
  exact controlAxis_of_ramp h s.ctl.frictionEn (m.isSome && m != some i) (brakeDecision s m i)
    { s.ax.get i with err := e }

/-! ### Runs of ticks (R294) -/

/-- What O50 keeps of axis `i`, whose velocity was `v` when the run began: it is no faster, and while the move lasts
the latch is set and the velocity has not gone below its floor. -/
structure Slowing (c : Config) (v : Nat) (i : Axis) (s : State) : Prop where
  cfg : s.cfg = c
  slower : (s.ax.get i).vActual.toNat ≤ v
  moving : s.fsm = .running →
    s.q.count = 0#16 ∧ (s.ax.get i).braking = true ∧ min c.vFloor v ≤ (s.ax.get i).vActual.toNat

/-- LF ticks: an axis without steps keeps its velocity, and one that brakes takes the ramp's braking branch. -/
theorem Slowing.tickLf {v : Nat} (h : Slowing c v i s) (accel : 0 < c.accel) (raw : PerAxis U32) :
    Slowing c v i (tickLf raw s) := by
  by_cases hr : s.fsm = .running
  case neg =>
    obtain ⟨-, ax⟩ := tickLf_of_not_running (raw := raw) hr
    exact ⟨by simpa using h.cfg, by rw [ax]; exact h.slower, fun running => absurd (by simpa using running) hr⟩
  obtain ⟨empty, braking, floor⟩ := h.moving hr
  have slower := h.slower
  suffices kept : ((Machine.tickLf raw s).ax.get i).braking = true ∧
      ((Machine.tickLf raw s).ax.get i).vActual.toNat ≤ (s.ax.get i).vActual.toNat ∧
      min (s.ax.get i).vActual.toNat s.cfg.vFloor ≤ ((Machine.tickLf raw s).ax.get i).vActual.toNat by
    obtain ⟨braking', slower', floor'⟩ := kept
    rw [h.cfg] at floor'
    exact ⟨by simpa using h.cfg, slower'.trans slower, fun _ => ⟨by simpa using empty, braking', by omega⟩⟩
  by_cases ht : (s.ax.get i).total = 0#32
  · have idle := tickLf_ax_of_idle hr raw ht
    have velocity : ((Machine.tickLf raw s).ax.get i).vActual = (s.ax.get i).vActual :=
      (congrArg AxisState.vActual idle :)
    have latch : ((Machine.tickLf raw s).ax.get i).braking = (s.ax.get i).braking :=
      (congrArg AxisState.braking idle :)
    rw [velocity, latch]
    exact ⟨braking, le_rfl, Nat.min_le_left _ _⟩
  · obtain ⟨latch, -, velocity⟩ := tickLf_ramp (h.cfg ▸ accel) hr raw ht
    have set : latched (brakeDecision s (Machine.tickLf raw s).ctl.master i) (s.ax.get i) = true :=
      latched_eq_true_iff.2 (.inl braking)
    rw [latch, velocity, set, (toNat_rampedVelocity ..).1]
    exact ⟨rfl, by omega, by omega⟩

theorem closeHolds_velocity (c : Config) (a : AxisState) :
    (closeHolds c a).vActual = a.vActual ∧ (closeHolds c a).braking = a.braking := by
  unfold closeHolds
  split <;> [split; skip] <;> exact ⟨rfl, rfl⟩

theorem movedAxis_velocity (c : Config) (a : AxisState) :
    (movedAxis c a).vActual = a.vActual ∧ (movedAxis c a).braking = a.braking := by
  unfold movedAxis accumulated
  split <;> [split; skip] <;> exact ⟨rfl, rfl⟩

/-- HF ticks write no velocity but by ending the move, the queue being empty. -/
theorem Slowing.tickHf {v : Nat} (h : Slowing c v i s) : Slowing c v i (tickHf s) := by
  obtain ⟨closedVelocity, closedLatch⟩ := closeHolds_velocity s.cfg (s.ax.get i)
  by_cases hr : s.fsm = .running
  case neg =>
    rw [tickHf_of_not_running hr]
    refine ⟨by simpa [State.forAxes] using h.cfg, ?_, fun running => ?_⟩
    · rw [closed_ax, closedVelocity]
      exact h.slower
    · exact absurd (by simpa [State.forAxes] using running) hr
  obtain ⟨empty, braking, floor⟩ := h.moving hr
  obtain ⟨movedVelocity, movedLatch⟩ := movedAxis_velocity s.cfg (closeHolds s.cfg (s.ax.get i))
  obtain ⟨cfg, -, queue⟩ := afterPhases_frame s
  rw [tickHf_of_running hr]
  rcases completionCheck_cases (afterPhases s) with ⟨-, queued, -⟩ | ⟨-, -, -, e⟩ | ⟨e, -⟩
  · rw [queue] at queued
    exact absurd empty queued
  · rw [e]
    refine ⟨?_, ?_, fun running => ?_⟩
    · rw [pushMoveEnd_cfg, State.setFsm_cfg, stopAllAxes_cfg, cfg, h.cfg]
    · rw [pushMoveEnd_ax, State.setFsm_ax, stopAllAxes_ax, PerAxis.get_same]
      exact Nat.zero_le v
    · rw [pushMoveEnd_fsm] at running
      cases running
  · rw [e]
    refine ⟨cfg.trans h.cfg, ?_, fun _ => ?_⟩
    · rw [afterPhases_ax, movedVelocity, closedVelocity]
      exact h.slower
    · rw [afterPhases_ax, movedVelocity, closedVelocity, movedLatch, closedLatch, queue]
      exact ⟨empty, braking, floor⟩

theorem Slowing.ok {v : Nat} (h : Slowing c v i s) (o : OutVal) : Slowing c v i (s.ok o) := ⟨h.cfg, h.slower, h.moving⟩

/-- Any run of ticks keeps it. -/
theorem Slowing.execAll {v : Nat} {ticks : List Instr} {rs : List OpResult} (h : Slowing c v i s)
    (accel : 0 < c.accel) (hk : ∀ k ∈ ticks, k = .tickHf ∨ ∃ raw, k = .tickLf raw)
    (he : execAll ticks s = some (t, rs)) : Slowing c v i t := by
  induction ticks generalizing s rs with
  | nil => cases he; exact h
  | cons k ticks ih =>
    obtain ⟨hk, hks⟩ := List.forall_mem_cons.1 hk
    obtain ⟨u, step, next⟩ : ∃ u, exec k s = .next u ∧ Slowing c v i u := by
      rcases hk with rfl | ⟨raw, rfl⟩
      · exact ⟨_, rfl, h.tickHf.ok _⟩
      · exact ⟨_, rfl, (h.tickLf accel raw).ok _⟩
    rw [Machine.execAll, step] at he
    obtain ⟨⟨t', rs'⟩, rest, e⟩ := Option.map_eq_some_iff.1 he
    cases e
    exact ih next hks rest

end

/-! ### The obligations -/

/-- Settles O48, by the ramp's branches (`tickLf_ramp`); without a ramp the velocity is that of O47. -/
theorem rampRule : Obligations.RampRule := by
  intro s raw i hw hr ht
  refine ⟨_, exec_tickLf raw s, ?_⟩
  rw [State.ok_ax, State.ok_ctl]
  intro a v tv sum acc units
  refine ⟨fun noRamp => ?noRamp, fun accel => ?ramp⟩
  case noRamp =>
    obtain ⟨t, he, -, -, -, -, axis⟩ := pidAndThrottleRule s raw i hw hr ht
    cases he
    obtain ⟨velocity, latch, accFrac⟩ := axis noRamp
    refine ⟨?_, latch, accFrac⟩
    have nonneg := (controlRule_bounds s.cfg (tickLf raw s).ctl.master i a ((tickLf raw s).ax.get i).err.toInt).1
    rw [← BitVec.ofInt_natCast, Int.toNat_of_nonneg nonneg]
    exact velocity
  case ramp =>
    obtain ⟨latch, accFrac, velocity⟩ := tickLf_ramp accel hr raw ht
    have acc_eq : acc = accelSum s.cfg a := accelSum_eq s.cfg a rfl
    obtain ⟨brakes, rises, falls, cruises⟩ := toNat_rampedVelocity s.cfg tv a
    have unlatched (h : ((tickLf raw s).ax.get i).braking = false) :
        ((tickLf raw s).ax.get i).vActual = BitVec.ofNat 32 (rampedVelocity s.cfg tv false a) := by
      rw [velocity, ← latch, h]
    simp only [units, acc_eq]
    refine ⟨?_, ?_, fun h => ?_, fun h rising => ?_, fun h falling => ?_, fun h cruising => ?_⟩
    · rw [latch, latched_eq_true_iff, brakeDecision_iff accel]
    · rw [accFrac, BitVec.toNat_ofNat, Nat.mod_eq_of_lt (by omega)]
    · rw [velocity, ← latch, h]
      exact brakes
    · rw [unlatched h, rises rising]
    · rw [unlatched h]
      exact falls falling
    · rw [unlatched h]
      exact cruises cruising

/-- Settles O50: each tick keeps the axis slowing. -/
theorem brakingNeverSpeedsUp : Obligations.BrakingNeverSpeedsUp := by
  intro s t i ticks rs _ _ accel empty braking hk he
  have start : Slowing s.cfg (s.ax.get i).vActual.toNat i s :=
    ⟨rfl, le_rfl, fun _ => ⟨empty, braking, Nat.min_le_right _ _⟩⟩
  have final := start.execAll accel hk he
  refine ⟨final.slower, fun running => ?_⟩
  obtain ⟨-, latch, floor⟩ := final.moving running
  exact ⟨latch, floor⟩

end Sys2Proof.Machine
